-- ==== Sys2Proof/Word.lean ====
section
/-! DEFINITION. The word types of the core: a byte (a register `V[x]`, a memory byte, an immediate `nn`), a 16-bit
word (`I`, `pc`, a stack entry, an instruction word), a 12-bit address `nnn`, and the numbers of registers and keys. -/

namespace Sys2Proof

/-- A byte: a general register (R13), a timer (R18), a memory byte (R27), the immediate `nn` (R42). -/
abbrev Byte := BitVec 8

/-- A 16-bit word: `pc` (R15), `I` (R16), a stack entry (R17), an instruction word (R41). -/
abbrev Word := BitVec 16

/-- The 12-bit immediate `nnn`, an address (R42). -/
abbrev Addr := BitVec 12

/-- A register number `x` or `y`, 0 to 15 (R43). -/
abbrev Reg := Fin 16

/-- A key number, 0 to 15 (R20, C8). -/
abbrev Key := Fin 16

end Sys2Proof
end

