-- ==== Sys2Proof/Syntax.lean ====
section
/-! DEFINITION. The instructions: one constructor per row of spec/opcode_table.json (R45), with the operands that
R42 and R43 give it. A register number and the count `n` are numbers below 16, an immediate is the bits it has. -/

namespace Sys2Proof

/-- The 32 instructions of R45, in the table's order. Every operand value the types admit is one the encoding
admits (R43). -/
inductive Instr where
  /-- `00E0` CLS (R52) -/
  | cls
  /-- `00EE` RET (R54) -/
  | ret
  /-- `1nnn` JP nnn (R55) -/
  | jp (nnn : Addr)
  /-- `2nnn` CALL nnn (R56) -/
  | call (nnn : Addr)
  /-- `3xnn` SE Vx, nn (R57) -/
  | seImm (x : Reg) (nn : Byte)
  /-- `4xnn` SNE Vx, nn (R58) -/
  | sneImm (x : Reg) (nn : Byte)
  /-- `5xy0` SE Vx, Vy (R59) -/
  | seReg (x y : Reg)
  /-- `6xnn` LD Vx, nn (R62) -/
  | ldImm (x : Reg) (nn : Byte)
  /-- `7xnn` ADD Vx, nn (R63) -/
  | addImm (x : Reg) (nn : Byte)
  /-- `8xy0` LD Vx, Vy (R64) -/
  | ldReg (x y : Reg)
  /-- `8xy2` AND Vx, Vy (R65) -/
  | and (x y : Reg)
  /-- `8xy3` XOR Vx, Vy (R66) -/
  | xor (x y : Reg)
  /-- `8xy4` ADD Vx, Vy (R67) -/
  | addReg (x y : Reg)
  /-- `8xy5` SUB Vx, Vy (R68) -/
  | sub (x y : Reg)
  /-- `8xy6` SHR Vx (R69); the `y` field is decoded and not read -/
  | shr (x y : Reg)
  /-- `8xy7` SUBN Vx, Vy (R70) -/
  | subn (x y : Reg)
  /-- `8xyE` SHL Vx (R71); the `y` field is decoded and not read -/
  | shl (x y : Reg)
  /-- `9xy0` SNE Vx, Vy (R60) -/
  | sneReg (x y : Reg)
  /-- `Annn` LD I, nnn (R73) -/
  | ldI (nnn : Addr)
  /-- `Cxnn` RND Vx, nn (R72) -/
  | rnd (x : Reg) (nn : Byte)
  /-- `Dxyn` DRW Vx, Vy, n (R53) -/
  | drw (x y : Reg) (n : Fin 16)
  /-- `Ex9E` SKP Vx (R79) -/
  | skp (x : Reg)
  /-- `ExA1` SKNP Vx (R80) -/
  | sknp (x : Reg)
  /-- `Fx07` LD Vx, DT (R81) -/
  | ldVxDt (x : Reg)
  /-- `Fx0A` LD Vx, K (R82) -/
  | ldVxK (x : Reg)
  /-- `Fx15` LD DT, Vx (R83) -/
  | ldDtVx (x : Reg)
  /-- `Fx18` LD ST, Vx (R84) -/
  | ldStVx (x : Reg)
  /-- `Fx1E` ADD I, Vx (R74) -/
  | addI (x : Reg)
  /-- `Fx29` LD F, Vx (R75) -/
  | ldF (x : Reg)
  /-- `Fx33` LD B, Vx (R76) -/
  | ldB (x : Reg)
  /-- `Fx55` LD [I], Vx (R77) -/
  | ldMemVx (x : Reg)
  /-- `Fx65` LD Vx, [I] (R78) -/
  | ldVxMem (x : Reg)
  deriving DecidableEq, Repr

end Sys2Proof
end

