-- ==== Sys2Proof/Config.lean ====
section
/-! DEFINITION. The parameters of 00_scope.md R6 that are fixed for this hardware, the defaults of those a machine
is constructed with, the font table, and the free value the random oracle answers. -/

namespace Sys2Proof

/-- `MEM_SIZE` (R6, R27). -/
@[simp] abbrev Config.memSize : Nat := 4096

/-- `FONT_BASE` (R6, R28). -/
@[simp] abbrev Config.fontBase : Nat := 0x50

/-- `GLYPH_BYTES` (R6). -/
@[simp] abbrev Config.glyphBytes : Nat := 5

/-- `PROGRAM_START`, the reset value of `pc` and where a ROM is loaded (R6, R15, R28). -/
@[simp] abbrev Config.programStart : Nat := 0x200

/-- `MAX_ROM`, the longest ROM accepted (R6, R112). -/
@[simp] abbrev Config.maxRom : Nat := 3584

/-- `WIDTH` (R6, R19). -/
@[simp] abbrev Config.width : Nat := 64

/-- `HEIGHT` (R6, R19). -/
@[simp] abbrev Config.height : Nat := 32

/-- The conventional `CLOCK_HZ` (R6, R89). DESIGN CHOICE: the value State.reset carries (log 3). Unsafe. -/
def Config.clockHz : Nat := 700

/-- `STACK_LIMIT` of this hardware: none, an unbounded stack (R6, R17, D8; log 13). Unsafe. -/
def Config.stackLimit : Option Nat := none

/-- The parameters one machine is constructed with (R6, R112): no rule changes them. -/
structure Params where
  /-- `CLOCK_HZ`, from which IPT follows (R89) -/
  clockHz : Nat
  /-- `STACK_LIMIT`, none for an unbounded stack (R17, R56); 0, which R6 does not allow, is log 33 -/
  stackLimit : Option Nat
  deriving DecidableEq, Repr

/-- The default `FONT_TABLE`, 16 glyphs of 5 bytes (R29). PRESUMED: the spec itself marks the bytes as general
knowledge, not in its source (G1; log 6). Unsafe: a claim that depends on a glyph's bytes depends on this table. -/
def Config.fontTable : List Byte :=
  [ 0xF0, 0x90, 0x90, 0x90, 0xF0,   0x20, 0x60, 0x20, 0x20, 0x70,
    0xF0, 0x10, 0xF0, 0x80, 0xF0,   0xF0, 0x10, 0xF0, 0x10, 0xF0 ] ++
  [ 0x90, 0x90, 0xF0, 0x10, 0x10,   0xF0, 0x80, 0xF0, 0x10, 0xF0,
    0xF0, 0x80, 0xF0, 0x90, 0xF0,   0xF0, 0x10, 0x20, 0x40, 0x40 ] ++
  [ 0xF0, 0x90, 0xF0, 0x90, 0xF0,   0xF0, 0x90, 0xF0, 0x10, 0xF0,
    0xF0, 0x90, 0xF0, 0x90, 0x90,   0xE0, 0x90, 0xE0, 0x90, 0xE0 ] ++
  [ 0xF0, 0x80, 0x80, 0x80, 0xF0,   0xE0, 0x90, 0x90, 0x90, 0xE0,
    0xF0, 0x80, 0xF0, 0x80, 0xF0,   0xF0, 0x80, 0xF0, 0x80, 0x80 ]

/-- The random oracle `RANDOM` (R6, R72, D20): its `n`-th answer, a free value. It has no body, so nothing can be
proved of an answer and a claim holds for every sequence of draws (log 4). Safe. -/
opaque Config.randomByte : Nat → Byte

end Sys2Proof
end

