-- ==== Sys2Proof/WellFormed.lean ====
section
/-! DEFINITION. What the spec asks of the terms a machine is given: instructions (30_encoding.md), the parameters, the
font table and the ROM of Construct (00_scope.md R6, 70_reset_and_hazards.md R112). -/

namespace Sys2Proof

/-- An instruction is well formed when its operands fit their fields (R42, R43): a register number or count in 4 bits,
a byte in 8, an address in 12. The operand types hold nothing else and no rule forbids any operand value, so this
check refuses no term; it is written out so that a wider operand type could not slip past it. -/
def Instr.wellFormed : Instr → Bool
  | .cls | .ret => true
  | .jp nnn | .call nnn | .ldI nnn => nnn.toNat < 4096
  | .seImm x nn | .sneImm x nn | .ldImm x nn | .addImm x nn | .rnd x nn => x.val < 16 && nn.toNat < 256
  | .seReg x y | .ldReg x y | .and x y | .xor x y | .addReg x y | .sub x y | .shr x y | .subn x y | .shl x y
  | .sneReg x y => x.val < 16 && y.val < 16
  | .drw x y n => x.val < 16 && y.val < 16 && n.val < 16
  | .skp x | .sknp x | .ldVxDt x | .ldVxK x | .ldDtVx x | .ldStVx x | .addI x | .ldF x | .ldB x | .ldMemVx x
  | .ldVxMem x => x.val < 16

/-- `CLOCK_HZ` is at least 60 and `STACK_LIMIT` is none or a positive count (R6). -/
def Params.wellFormed (p : Params) : Bool :=
  60 ≤ p.clockHz && p.stackLimit != some 0

/-- `FONT_TABLE` has 80 bytes (R6, R29). -/
def fontWellFormed (font : List Byte) : Bool :=
  font.length = 80

/-- A ROM has at most `4096 - 512` bytes (R112); an empty one is accepted (D26). -/
def romWellFormed (rom : List Byte) : Bool :=
  rom.length ≤ Config.maxRom

end Sys2Proof
end

