-- ==== Sys2Proof/Decode.lean ====
section
/-! DEFINITION. The decoder of 30_encoding.md R46, total on the two bytes of an instruction; the encoder, from the
patterns of R45; the decode table's match and mask pairs; and `decodeTableWord` for the host. -/

namespace Sys2Proof

/-- Why a word does not decode: it is in none of the 32 rows of R45 (R47). -/
inductive DecodeError where
  /-- R95 code 1, with the word `op` -/
  | decodeFailure (op : Word)
  deriving DecidableEq, Repr

/-- `i = op[15:12]`, the family (R42). -/
def fieldI (op : Word) : BitVec 4 := op.extractLsb' 12 4

/-- `x = op[11:8]`, a register number (R42). -/
def fieldX (op : Word) : Reg := (op.extractLsb' 8 4).toFin

/-- `y = op[7:4]`, a register number (R42). -/
def fieldY (op : Word) : Reg := (op.extractLsb' 4 4).toFin

/-- `n = op[3:0]`, a count or a sub-opcode (R42). -/
def fieldN (op : Word) : BitVec 4 := op.extractLsb' 0 4

/-- `nn = op[7:0]`, a byte or a sub-opcode (R42). -/
def fieldNN (op : Word) : Byte := op.extractLsb' 0 8

/-- `nnn = op[11:0]`, an address (R42). -/
def fieldNNN (op : Word) : Addr := op.extractLsb' 0 12

/-- `Decode` of R46 on the word `op = b1 ++ b2`. -/
def decodeWord (op : Word) : Except DecodeError Instr :=
  match fieldI op with
  | 0x0#4 =>
    if op = 0x00E0#16 then .ok .cls
    else if op = 0x00EE#16 then .ok .ret
    else .error (.decodeFailure op)
  | 0x1#4 => .ok (.jp (fieldNNN op))
  | 0x2#4 => .ok (.call (fieldNNN op))
  | 0x3#4 => .ok (.seImm (fieldX op) (fieldNN op))
  | 0x4#4 => .ok (.sneImm (fieldX op) (fieldNN op))
  | 0x5#4 => if fieldN op = 0 then .ok (.seReg (fieldX op) (fieldY op)) else .error (.decodeFailure op)
  | 0x6#4 => .ok (.ldImm (fieldX op) (fieldNN op))
  | 0x7#4 => .ok (.addImm (fieldX op) (fieldNN op))
  | 0x8#4 =>
    match fieldN op with
    | 0x0#4 => .ok (.ldReg (fieldX op) (fieldY op))
    | 0x2#4 => .ok (.and (fieldX op) (fieldY op))
    | 0x3#4 => .ok (.xor (fieldX op) (fieldY op))
    | 0x4#4 => .ok (.addReg (fieldX op) (fieldY op))
    | 0x5#4 => .ok (.sub (fieldX op) (fieldY op))
    | 0x6#4 => .ok (.shr (fieldX op) (fieldY op))
    | 0x7#4 => .ok (.subn (fieldX op) (fieldY op))
    | 0xE#4 => .ok (.shl (fieldX op) (fieldY op))
    | _ => .error (.decodeFailure op)
  | 0x9#4 => if fieldN op = 0 then .ok (.sneReg (fieldX op) (fieldY op)) else .error (.decodeFailure op)
  | 0xA#4 => .ok (.ldI (fieldNNN op))
  | 0xC#4 => .ok (.rnd (fieldX op) (fieldNN op))
  | 0xD#4 => .ok (.drw (fieldX op) (fieldY op) (fieldN op).toFin)
  | 0xE#4 =>
    match fieldNN op with
    | 0x9E#8 => .ok (.skp (fieldX op))
    | 0xA1#8 => .ok (.sknp (fieldX op))
    | _ => .error (.decodeFailure op)
  | 0xF#4 =>
    match fieldNN op with
    | 0x07#8 => .ok (.ldVxDt (fieldX op))
    | 0x0A#8 => .ok (.ldVxK (fieldX op))
    | 0x15#8 => .ok (.ldDtVx (fieldX op))
    | 0x18#8 => .ok (.ldStVx (fieldX op))
    | 0x1E#8 => .ok (.addI (fieldX op))
    | 0x29#8 => .ok (.ldF (fieldX op))
    | 0x33#8 => .ok (.ldB (fieldX op))
    | 0x55#8 => .ok (.ldMemVx (fieldX op))
    | 0x65#8 => .ok (.ldVxMem (fieldX op))
    | _ => .error (.decodeFailure op)
  | _ => .error (.decodeFailure op)

/-- `Decode(b1, b2)` of R46: `b1`, at the lower address, is the high byte (R32, R41). -/
def decode (b1 b2 : Byte) : Except DecodeError Instr := decodeWord (b1 ++ b2)

/-- A word of format `NNN` (R44): the digit `i`, then `nnn`. -/
def wordNNN (i : BitVec 4) (nnn : Addr) : Word := i ++ nnn

/-- A word of format `XNN` or `XSS` (R44): the digit `i`, then `x`, then a byte. -/
def wordXNN (i : BitVec 4) (x : Reg) (nn : Byte) : Word := i ++ (BitVec.ofFin x : BitVec 4) ++ nn

/-- A word of format `XYS` or `XYN` (R44): the digit `i`, then `x`, `y` and a last digit. -/
def wordXYN (i : BitVec 4) (x y : Reg) (n : BitVec 4) : Word :=
  i ++ (BitVec.ofFin x : BitVec 4) ++ (BitVec.ofFin y : BitVec 4) ++ n

/-- The word of an instruction, from the patterns of R45. -/
def encode : Instr → Word
  | .cls => 0x00E0
  | .ret => 0x00EE
  | .jp nnn => wordNNN 0x1 nnn
  | .call nnn => wordNNN 0x2 nnn
  | .seImm x nn => wordXNN 0x3 x nn
  | .sneImm x nn => wordXNN 0x4 x nn
  | .seReg x y => wordXYN 0x5 x y 0x0
  | .ldImm x nn => wordXNN 0x6 x nn
  | .addImm x nn => wordXNN 0x7 x nn
  | .ldReg x y => wordXYN 0x8 x y 0x0
  | .and x y => wordXYN 0x8 x y 0x2
  | .xor x y => wordXYN 0x8 x y 0x3
  | .addReg x y => wordXYN 0x8 x y 0x4
  | .sub x y => wordXYN 0x8 x y 0x5
  | .shr x y => wordXYN 0x8 x y 0x6
  | .subn x y => wordXYN 0x8 x y 0x7
  | .shl x y => wordXYN 0x8 x y 0xE
  | .sneReg x y => wordXYN 0x9 x y 0x0
  | .ldI nnn => wordNNN 0xA nnn
  | .rnd x nn => wordXNN 0xC x nn
  | .drw x y n => wordXYN 0xD x y (BitVec.ofFin n)
  | .skp x => wordXNN 0xE x 0x9E
  | .sknp x => wordXNN 0xE x 0xA1
  | .ldVxDt x => wordXNN 0xF x 0x07
  | .ldVxK x => wordXNN 0xF x 0x0A
  | .ldDtVx x => wordXNN 0xF x 0x15
  | .ldStVx x => wordXNN 0xF x 0x18
  | .addI x => wordXNN 0xF x 0x1E
  | .ldF x => wordXNN 0xF x 0x29
  | .ldB x => wordXNN 0xF x 0x33
  | .ldMemVx x => wordXNN 0xF x 0x55
  | .ldVxMem x => wordXNN 0xF x 0x65

/-- The high byte of a word, stored at the lower address (R32). -/
def highByte (op : Word) : Byte := op.extractLsb' 8 8

/-- The low byte of a word, stored at the higher address (R32). -/
def lowByte (op : Word) : Byte := op.extractLsb' 0 8

/-- The row of the decode table of R45 an instruction stands in, as its (match, mask) pair. -/
def tableRow : Instr → Word × Word
  | .cls => (0x00E0, 0xFFFF)
  | .ret => (0x00EE, 0xFFFF)
  | .jp _ => (0x1000, 0xF000)
  | .call _ => (0x2000, 0xF000)
  | .seImm _ _ => (0x3000, 0xF000)
  | .sneImm _ _ => (0x4000, 0xF000)
  | .seReg _ _ => (0x5000, 0xF00F)
  | .ldImm _ _ => (0x6000, 0xF000)
  | .addImm _ _ => (0x7000, 0xF000)
  | .ldReg _ _ => (0x8000, 0xF00F)
  | .and _ _ => (0x8002, 0xF00F)
  | .xor _ _ => (0x8003, 0xF00F)
  | .addReg _ _ => (0x8004, 0xF00F)
  | .sub _ _ => (0x8005, 0xF00F)
  | .shr _ _ => (0x8006, 0xF00F)
  | .subn _ _ => (0x8007, 0xF00F)
  | .shl _ _ => (0x800E, 0xF00F)
  | .sneReg _ _ => (0x9000, 0xF00F)
  | .ldI _ => (0xA000, 0xF000)
  | .rnd _ _ => (0xC000, 0xF000)
  | .drw _ _ _ => (0xD000, 0xF000)
  | .skp _ => (0xE09E, 0xF0FF)
  | .sknp _ => (0xE0A1, 0xF0FF)
  | .ldVxDt _ => (0xF007, 0xF0FF)
  | .ldVxK _ => (0xF00A, 0xF0FF)
  | .ldDtVx _ => (0xF015, 0xF0FF)
  | .ldStVx _ => (0xF018, 0xF0FF)
  | .addI _ => (0xF01E, 0xF0FF)
  | .ldF _ => (0xF029, 0xF0FF)
  | .ldB _ => (0xF033, 0xF0FF)
  | .ldMemVx _ => (0xF055, 0xF0FF)
  | .ldVxMem _ => (0xF065, 0xF0FF)

/-- The (match, mask) column of R45, all 32 rows in the table's order. -/
def decodeTable : List (Word × Word) :=
  [ (0x00E0, 0xFFFF), (0x00EE, 0xFFFF), (0x1000, 0xF000), (0x2000, 0xF000),
    (0x3000, 0xF000), (0x4000, 0xF000), (0x5000, 0xF00F), (0x6000, 0xF000) ] ++
  [ (0x7000, 0xF000), (0x8000, 0xF00F), (0x8002, 0xF00F), (0x8003, 0xF00F),
    (0x8004, 0xF00F), (0x8005, 0xF00F), (0x8006, 0xF00F), (0x8007, 0xF00F) ] ++
  [ (0x800E, 0xF00F), (0x9000, 0xF00F), (0xA000, 0xF000), (0xC000, 0xF000),
    (0xD000, 0xF000), (0xE09E, 0xF0FF), (0xE0A1, 0xF0FF), (0xF007, 0xF0FF) ] ++
  [ (0xF00A, 0xF0FF), (0xF015, 0xF0FF), (0xF018, 0xF0FF), (0xF01E, 0xF0FF),
    (0xF029, 0xF0FF), (0xF033, 0xF0FF), (0xF055, 0xF0FF), (0xF065, 0xF0FF) ]

/-- Whether a word selects a row: `op & mask = match` (R45). -/
def matchesRow (op : Word) (row : Word × Word) : Bool := op &&& row.2 == row.1

/-- The instruction the decoder reads from an instruction whose bits are `w`, numbered as spec/opcode_table.json
numbers them: every instruction is one 16-bit word (R41), its high byte first in memory (R32). -/
def decodeTableWord (nbits w : Nat) : Option Instr :=
  let op := BitVec.ofNat 16 (w % 2 ^ nbits)
  match decode (highByte op) (lowByte op) with
  | .ok i => some i
  | .error _ => none

end Sys2Proof
end

