-- ==== Sys2Proof/Machine/Flags.lean ====
section
/-! DEFINITION. What the instructions that write `VF` write there (R14, R61), each computed on unbounded integers. -/

namespace Sys2Proof.Machine

/-- The carry of an 8-bit addition: `a + b > 255` (R67). -/
def carryOut (a b : Byte) : Bool := decide (a.toNat + b.toNat > 255)

/-- No borrow in `a - b`: `a >= b` (R68, R70). -/
def noBorrow (a b : Byte) : Bool := decide (a.toNat ≥ b.toNat)

/-- The bit a right shift moves out, bit 0 (R69). -/
def lowBit (a : Byte) : Bool := a.getLsbD 0

/-- The bit a left shift moves out, bit 7 (R71). -/
def highBit (a : Byte) : Bool := a.getLsbD 7

/-- The 12-bit overflow of `I + Vx`: `a + b > 0x0FFF` (R74, D3). -/
def indexOverflow (a : Word) (b : Byte) : Bool := decide (a.toNat + b.toNat > 0x0FFF)

end Sys2Proof.Machine
end

