-- ==== Sys2Proof/Machine/State.lean ====
section
/-! DEFINITION. The state of the core: all of 10_state.md, the parameters of the instance, the emitted events, and
the model's own driver fields; the fault record of 60_exceptions.md; and the state after reset (R113). -/

namespace Sys2Proof.Machine

/-- An event of the output sequence (R10, R85): a call of the Graphics or the Audio capability. -/
inductive Event where
  | drawPixel (x y : Nat)
  | clearPixel (x y : Nat)
  | startBeep
  | stopBeep
  deriving DecidableEq, Repr

/-- The access an `OutOfRange` fault names (R95). -/
inductive RangeKind where
  | fetch
  | spriteRead
  | bcdWrite
  | storeRegs
  | loadRegs
  deriving DecidableEq, Repr

/-- The run-time faults of R95 with the information each records beside the pc. -/
inductive FaultCause where
  /-- code 1: the word does not decode (R47) -/
  | decodeFailure (op : Word)
  /-- code 2: `len` bytes from `addr` reach past the end of memory (R35) -/
  | outOfRange (addr : Word) (len : Nat) (kind : RangeKind)
  /-- code 3: `00EE` on an empty stack (R54) -/
  | stackUnderflow
  /-- code 4: `2nnn` on a full stack, only with a STACK_LIMIT (R56) -/
  | stackOverflow
  deriving DecidableEq, Repr

/-- The fault record (R23, R96): the address of the faulting instruction, and the cause. Its code and its name
follow from the cause: `FaultCause.code`, `FaultCause.name`. -/
structure FaultRecord where
  pc : Word
  cause : FaultCause
  deriving DecidableEq, Repr

/-- A host operation on a constructed core (R85). A key outside 0..15 cannot be written (D24). -/
inductive HostOp where
  | tick
  | press (k : Key)
  | release
  deriving DecidableEq, Repr

/-- The framebuffer (R19): `fb[x][y]` is the cell at column `x` and row `y`. -/
abbrev Framebuffer := Vector (Vector Bool 32) 64

/-- Memory (R27) as the cells that differ from its contents after construction with an empty ROM, addresses
strictly rising; `Memory.wf` in Machine/Ops.lean says so. -/
abbrev Memory := List Host.Cell

/-- The state of the core. -/
structure State where
  /-- `V0` to `VF` (R13); `VF` is `V[15]`, also the flag (R14) -/
  v : Vector Byte 16
  /-- `I`, the index register (R16) -/
  index : Word
  /-- the program counter (R15) -/
  pc : Word
  /-- the call stack; its last entry is the top (R17) -/
  stack : List Word
  /-- `DT`, the delay timer (R18) -/
  dt : Byte
  /-- `ST`, the sound timer (R18) -/
  st : Byte
  /-- `FB`, the framebuffer (R19) -/
  fb : Framebuffer
  /-- the key latch (R20) -/
  key : Option Key
  /-- the pending-wait slot (R21) -/
  wait : Option Reg
  /-- the beeping flag (R22) -/
  beeping : Bool
  /-- the first fatal error, if there was one (R23) -/
  fault : Option FaultRecord
  /-- memory (R27) -/
  mem : Memory
  /-- the event sequence, oldest first (R85); no rule reads it (R25) -/
  events : List Event
  /-- the parameters of this machine (R6, R25); no rule changes them -/
  params : Params
  /-- the model's own: how many bytes the random oracle has answered (R72, log 4) -/
  draws : Nat
  /-- the model's own: the instruction cycles left of the tick in progress, 0 between ticks (R90, log 1) -/
  cyclesLeft : Nat
  /-- the model's own: the host operations not yet applied, the next one first (R94, log 2) -/
  script : List HostOp
  deriving DecidableEq, Repr

/-- Why a step answers no next state. -/
inductive Fault where
  /-- Raised by `step` and by the host operations on a core whose `fault` is set: it has no move (R96, D10). Safe:
  nothing is claimed of a state after it. `r` is the record the host is shown (R85). -/
  | halted (r : FaultRecord)
  deriving DecidableEq, Repr

/-- Why an instruction has no meaning in this model. -/
inductive Refusal where
  /-- Raised by an arm of `exec` for an instruction not modelled yet; no arm of this model raises it. Safe. -/
  | notModelled (mnemonic : String)
  deriving DecidableEq, Repr

/-- All cells off (R19). -/
def Framebuffer.allOff : Framebuffer := Vector.replicate 64 (Vector.replicate 32 false)

/-- The state after `Construct` with an empty ROM, the default font and `CLOCK_HZ = 700` (R113, R30). Memory lists
nothing: every byte is what construction leaves there. `draws`, `cyclesLeft` and `script` are the model's own. -/
def State.reset : State where
  v := Vector.replicate 16 0
  index := 0
  pc := 0x200
  stack := []
  dt := 0
  st := 0
  fb := Framebuffer.allOff
  key := none
  wait := none
  beeping := false
  fault := none
  mem := []
  events := []
  params := { clockHz := Config.clockHz, stackLimit := Config.stackLimit }
  draws := 0
  cyclesLeft := 0
  script := []

end Sys2Proof.Machine
end

