-- ==== Sys2Proof/Machine/Ops.lean ====
section
/-! DEFINITION. The named operations every meaning is written over: registers, memory, the program counter, the call
stack, the framebuffer and events, the random oracle, and fault entry. -/

namespace Sys2Proof.Machine

/-! ### Registers (10_state.md) -/

/-- `VF`, the flag register (R9, R14). -/
abbrev VF : Reg := 15

/-- Read `V[x]` (R9). -/
def State.readV (s : State) (x : Reg) : Byte := s.v[x]

/-- `V[x] <- b` (R9). -/
def State.writeV (s : State) (x : Reg) (b : Byte) : State := { s with v := s.v.set x b }

/-- `VF <- bool(c)` (R7, R14). -/
def State.writeFlag (s : State) (c : Bool) : State := s.writeV VF (if c then 1 else 0)

/-- `I <- a` (R16). -/
def State.writeIndex (s : State) (a : Word) : State := { s with index := a }

/-- `DT <- b` (R18). -/
def State.writeDT (s : State) (b : Byte) : State := { s with dt := b }

/-- `ST <- b` (R18). -/
def State.writeST (s : State) (b : Byte) : State := { s with st := b }

/-- `wait <- w` (R21). -/
def State.writeWait (s : State) (w : Option Reg) : State := { s with wait := w }

/-- `key <- k` (R20). -/
def State.writeKey (s : State) (k : Option Key) : State := { s with key := k }

/-! ### The program counter (45_execution_cycle.md R88) -/

/-- The common advance `pc <- pc + 2`. -/
def State.advance (s : State) : State := { s with pc := s.pc + 2 }

/-- A skip: `pc <- pc + 4` when the condition holds, else `pc <- pc + 2` (41_control_flow.md). -/
def State.skipIf (s : State) (c : Bool) : State := { s with pc := s.pc + if c then 4 else 2 }

/-- `pc <- target`, with no advance (R55, R56). -/
def State.jumpTo (s : State) (target : Word) : State := { s with pc := target }

/-! ### Memory (20_memory.md) -/

/-- What a byte that no cell lists reads as: memory as construction with the default font and an empty ROM leaves it
(R28, R29, R30; log 7). -/
def Memory.background (a : Nat) : Byte :=
  if 0x50 ≤ a ∧ a < 0xA0 then Config.fontTable.getD (a - 0x50) 0 else 0

/-- One byte of memory. -/
def Memory.read : Memory → Nat → Byte
  | [], a => Memory.background a
  | (k, b) :: rest, a => if k = a then b else Memory.read rest a

/-- The cells without the one at `a`. -/
def Memory.remove (m : Memory) (a : Nat) : Memory := m.filter fun c => c.1 ≠ a

/-- The cells with one more put before the first at a higher address. -/
def Memory.insertCell : Memory → Nat → Byte → Memory
  | [], a, b => [(a, b)]
  | (k, c) :: rest, a, b => if a < k then (a, b) :: (k, c) :: rest else (k, c) :: Memory.insertCell rest a b

/-- Memory with the byte at `a` made `b`, in canonical form: a byte that `a` reads as without a cell needs none. -/
def Memory.write (m : Memory) (a : Nat) (b : Byte) : Memory :=
  if b = Memory.background a then m.remove a else (m.remove a).insertCell a b

/-- The cells from address `lo` on are listed in strictly rising order, inside the address space, and none holds
what its address reads as without it. -/
def Memory.wfFrom : Nat → Memory → Bool
  | _, [] => true
  | lo, (a, b) :: rest =>
    decide (lo ≤ a) && decide (a < 4096) && decide (b ≠ Memory.background a) && Memory.wfFrom (a + 1) rest

/-- The canonical form of memory: two memories in it that read the same are the same list. -/
def Memory.wf (m : Memory) : Bool := Memory.wfFrom 0 m

/-- `MemRead(addr, n)` (R10), once the range is checked: the bytes at `addr .. addr + n - 1`. -/
def Memory.readBytes (m : Memory) (addr n : Nat) : List Byte :=
  (List.range n).map fun k => m.read (addr + k)

/-- `MemWrite(addr, n, bytes)` (R10), once the range is checked: the bytes in order from `addr` on. -/
def Memory.writeBytes (m : Memory) (addr : Nat) : List Byte → Memory
  | [] => m
  | b :: rest => Memory.writeBytes (m.write addr b) (addr + 1) rest

/-- The range check of every access (R10, R35): `addr + n <= 4096`, on unbounded integers. -/
def inRange (addr n : Nat) : Bool := decide (addr + n ≤ 4096)

/-- One byte of the state's memory. -/
def State.readByte (s : State) (a : Nat) : Byte := s.mem.read a

/-- `MemWrite` on the state's memory. -/
def State.writeBytes (s : State) (addr : Nat) (bytes : List Byte) : State :=
  { s with mem := s.mem.writeBytes addr bytes }

/-! ### Faults (60_exceptions.md) -/

/-- The code of a fault (R95, D22). -/
def FaultCause.code : FaultCause → Nat
  | .decodeFailure _ => 1
  | .outOfRange _ _ _ => 2
  | .stackUnderflow => 3
  | .stackOverflow => 4

/-- The name of a fault (R95). -/
def FaultCause.name : FaultCause → String
  | .decodeFailure _ => "DecodeFailure"
  | .outOfRange _ _ _ => "OutOfRange"
  | .stackUnderflow => "StackUnderflow"
  | .stackOverflow => "StackOverflow"

/-- FAULT ENTRY (R96), the one way an instruction or a fetch raises a fault: `fault` becomes the record, with the
address of the faulting instruction, and nothing else changes. There is no vector, saved state or mode, and no return
from a fault (R97), so no operation undoes this one. -/
def State.raise (s : State) (c : FaultCause) : State := { s with fault := some { pc := s.pc, cause := c } }

/-- An access of `n` bytes at `addr` and what is done once it is in range; out of range, the fault entry alone (R35,
D11). -/
def State.withAccess (s : State) (addr : Word) (n : Nat) (kind : RangeKind) (act : State) : State :=
  if inRange addr.toNat n then act else s.raise (.outOfRange addr n kind)

/-! ### The call stack (R17) -/

/-- `Push(a)`: append to the stack (R9). -/
def State.push (s : State) (a : Word) : State := { s with stack := s.stack ++ [a] }

/-- `Pop()`: the last entry and the state without it, or none when the stack is empty (R9). -/
def State.pop (s : State) : Option (Word × State) :=
  match s.stack.getLast? with
  | none => none
  | some a => some (a, { s with stack := s.stack.dropLast })

/-- Whether a push would exceed `STACK_LIMIT` (R56). -/
def State.stackFull (s : State) : Bool := s.params.stackLimit == some s.stack.length

/-! ### The framebuffer and the events (R19, R104) -/

/-- The cell at column `x` and row `y`; off outside the grid. -/
def Framebuffer.get (fb : Framebuffer) (x y : Nat) : Bool :=
  match fb.toList[x]? with
  | some column => column.toList.getD y false
  | none => false

/-- The framebuffer with one cell made `b`; outside the grid there is no cell and nothing changes. -/
def Framebuffer.set (fb : Framebuffer) (x y : Nat) (b : Bool) : Framebuffer :=
  if h : x < 64 ∧ y < 32 then Vector.set fb x ((fb[x]'h.1).set y b h.2) h.1 else fb

/-- The call to the Graphics capability that goes with flipping a cell (R104). -/
def flipEvent (fb : Framebuffer) (c : Nat × Nat) : Event :=
  if fb.get c.1 c.2 then .clearPixel c.1 c.2 else .drawPixel c.1 c.2

/-- A framebuffer being drawn on, the events of it so far, and whether a cell was turned off. -/
structure Drawing where
  fb : Framebuffer
  events : List Event
  collision : Bool
  deriving DecidableEq, Repr

/-- Flip one cell: turn it off or on, with exactly one event; turning it off is a collision (R53, R104). -/
def Drawing.flip (d : Drawing) (c : Nat × Nat) : Drawing where
  fb := d.fb.set c.1 c.2 (!d.fb.get c.1 c.2)
  events := d.events ++ [flipEvent d.fb c]
  collision := d.collision || d.fb.get c.1 c.2

/-- Flip cells in order, from a framebuffer. -/
def flipCells (fb : Framebuffer) (cells : List (Nat × Nat)) : Drawing :=
  cells.foldl Drawing.flip { fb := fb, events := [], collision := false }

/-- Put a drawing's framebuffer in the state and append its events to the output (R10 `Emit`). -/
def State.applyDrawing (s : State) (d : Drawing) : State :=
  { s with fb := d.fb, events := s.events ++ d.events }

/-- The cells of the grid, `y` outer and `x` inner (R52, D14). -/
def gridCells : List (Nat × Nat) :=
  (List.range 32).flatMap fun y => (List.range 64).map fun x => (x, y)

/-- The cells that are on, in that order. -/
def litCells (fb : Framebuffer) : List (Nat × Nat) := gridCells.filter fun c => fb.get c.1 c.2

/-- The cells of one sprite row at `(ox, py)` whose bit is 1, high bit first, clipped at the right edge (R53). -/
def spriteRowCells (ox py : Nat) (bits : Byte) : List (Nat × Nat) :=
  ((List.range 8).filter fun c => decide (ox + c < 64) && bits.getLsbD (7 - c)).map fun c => (ox + c, py)

/-- The cells a sprite at `(ox, oy)` flips, row by row, clipped at the bottom edge (R53). -/
def spriteCells (ox : Nat) : Nat → List Byte → List (Nat × Nat)
  | _, [] => []
  | oy, bits :: rest =>
    if oy < 32 then spriteRowCells ox oy bits ++ spriteCells ox (oy + 1) rest else []

/-- `Emit(e)` (R10). -/
def State.emit (s : State) (e : Event) : State := { s with events := s.events ++ [e] }

/-! ### The random oracle -/

/-- `Random()` (R10, R72): the oracle's next answer, a free value. -/
def State.randomDraw (s : State) : Byte := Config.randomByte s.draws

/-- The state once that answer is taken: the next one is fresh (log 4). -/
def State.afterDraw (s : State) : State := { s with draws := s.draws + 1 }

end Sys2Proof.Machine
end

