-- ==== Sys2Proof/Machine/Operands.lean ====
section
/-! DEFINITION. The operand forms (R43): a register, a zero-extended immediate, the byte at `I` plus an offset, and
the blocks and digits the memory instructions move. -/

namespace Sys2Proof.Machine

/-- An address immediate `nnn`, zero-extended (R43). -/
def addrOperand (nnn : Addr) : Word := nnn.setWidth 16

/-- The effective address of byte `k` of an access through `I`: `I + k` on unbounded integers (43_index_memory.md). -/
def effectiveAddr (s : State) (k : Nat) : Nat := s.index.toNat + k

/-- The registers `V0` to `Vx`, both included (R77). -/
def regBlock (s : State) (x : Reg) : List Byte := s.v.toList.take (x.val + 1)

/-- `V0` to `Vx` loaded from the bytes at `I` on, the registers above `Vx` as they were (R78). -/
def loadBlock (s : State) (x : Reg) : Vector Byte 16 :=
  Vector.ofFn fun k => if k ≤ x then s.readByte (effectiveAddr s k.val) else s.v[k]

/-- The three decimal digits of a byte, hundreds first (R76). -/
def bcdDigits (b : Byte) : List Byte :=
  [BitVec.ofNat 8 (b.toNat / 100), BitVec.ofNat 8 (b.toNat % 100 / 10), BitVec.ofNat 8 (b.toNat % 10)]

/-- The address of the glyph of `b`, with no mask on `b` (R75). -/
def glyphAddr (b : Byte) : Word := BitVec.ofNat 16 (0x50 + b.toNat * 5)

/-- The sprite's origin, wrapped onto the grid (R53). -/
def spriteOrigin (s : State) (x y : Reg) : Nat × Nat :=
  ((s.readV x).toNat % 64, (s.readV y).toNat % 32)

/-- Whether the latched key is the one `Vx` names, with no mask on `Vx` (R79, D25). -/
def keyMatches (s : State) (x : Reg) : Bool :=
  match s.key with
  | none => false
  | some k => k.val == (s.readV x).toNat

end Sys2Proof.Machine
end

