-- ==== Sys2Proof/Machine/Alu.lean ====
section
/-! DEFINITION. The register loads and the arithmetic and logic instructions (42_alu.md). All operands are read
before any register is written, except that the shifts read `Vx` again after the flag (R61, D5). -/

namespace Sys2Proof.Machine

/-- `LD Vx, nn` (R62). -/
def execLdImm (x : Reg) (nn : Byte) (s : State) : Host.Outcome State Fault Refusal :=
  .next (s.writeV x nn).advance

/-- `ADD Vx, nn` (R63): wraps, and writes no flag. -/
def execAddImm (x : Reg) (nn : Byte) (s : State) : Host.Outcome State Fault Refusal :=
  .next (s.writeV x (s.readV x + nn)).advance

/-- `LD Vx, Vy` (R64). -/
def execLdReg (x y : Reg) (s : State) : Host.Outcome State Fault Refusal :=
  .next (s.writeV x (s.readV y)).advance

/-- `AND Vx, Vy` (R65). -/
def execAnd (x y : Reg) (s : State) : Host.Outcome State Fault Refusal :=
  .next (s.writeV x (s.readV x &&& s.readV y)).advance

/-- `XOR Vx, Vy` (R66). -/
def execXor (x y : Reg) (s : State) : Host.Outcome State Fault Refusal :=
  .next (s.writeV x (s.readV x ^^^ s.readV y)).advance

/-- `ADD Vx, Vy` (R67): the sum, then the carry, written last (D5). -/
def execAddReg (x y : Reg) (s : State) : Host.Outcome State Fault Refusal :=
  let a := s.readV x
  let b := s.readV y
  .next ((s.writeV x (a + b)).writeFlag (carryOut a b)).advance

/-- `SUB Vx, Vy` (R68): the difference, then no-borrow, written last (D5). -/
def execSub (x y : Reg) (s : State) : Host.Outcome State Fault Refusal :=
  let a := s.readV x
  let b := s.readV y
  .next ((s.writeV x (a - b)).writeFlag (noBorrow a b)).advance

/-- `SHR Vx` (R69): the flag first, then the shift of `Vx` read again (D5); `Vy` is not read (D4). -/
def execShr (x _y : Reg) (s : State) : Host.Outcome State Fault Refusal :=
  let t := s.writeFlag (lowBit (s.readV x))
  .next (t.writeV x (t.readV x >>> 1)).advance

/-- `SUBN Vx, Vy` (R70): `Vy - Vx`, then no-borrow, written last (D5). -/
def execSubn (x y : Reg) (s : State) : Host.Outcome State Fault Refusal :=
  let a := s.readV x
  let b := s.readV y
  .next ((s.writeV x (b - a)).writeFlag (noBorrow b a)).advance

/-- `SHL Vx` (R71): the flag first, then the shift of `Vx` read again (D5); `Vy` is not read (D4). -/
def execShl (x _y : Reg) (s : State) : Host.Outcome State Fault Refusal :=
  let t := s.writeFlag (highBit (s.readV x))
  .next (t.writeV x (t.readV x <<< 1)).advance

/-- `RND Vx, nn` (R72): one fresh answer of the oracle, masked. -/
def execRnd (x : Reg) (nn : Byte) (s : State) : Host.Outcome State Fault Refusal :=
  .next (s.afterDraw.writeV x (s.randomDraw &&& nn)).advance

end Sys2Proof.Machine
end

