-- ==== Sys2Proof/Machine/ControlFlow.lean ====
section
/-! DEFINITION. The control-flow instructions (41_control_flow.md): return, jump, call and the compare skips. -/

namespace Sys2Proof.Machine

/-- `RET` (R54): pop the address of the call and resume after it (C3); a fault on an empty stack. -/
def execRet (s : State) : Host.Outcome State Fault Refusal :=
  match s.pop with
  | none => .next (s.raise .stackUnderflow)
  | some (a, t) => .next (t.jumpTo (a + 2))

/-- `JP nnn` (R55). -/
def execJp (nnn : Addr) (s : State) : Host.Outcome State Fault Refusal :=
  .next (s.jumpTo (addrOperand nnn))

/-- `CALL nnn` (R56): push the address of this call; a fault when `STACK_LIMIT` is reached (D8). -/
def execCall (nnn : Addr) (s : State) : Host.Outcome State Fault Refusal :=
  .next (if s.stackFull then s.raise .stackOverflow else (s.push s.pc).jumpTo (addrOperand nnn))

/-- `SE Vx, nn` (R57). -/
def execSeImm (x : Reg) (nn : Byte) (s : State) : Host.Outcome State Fault Refusal :=
  .next (s.skipIf (s.readV x == nn))

/-- `SNE Vx, nn` (R58). -/
def execSneImm (x : Reg) (nn : Byte) (s : State) : Host.Outcome State Fault Refusal :=
  .next (s.skipIf (s.readV x != nn))

/-- `SE Vx, Vy` (R59). -/
def execSeReg (x y : Reg) (s : State) : Host.Outcome State Fault Refusal :=
  .next (s.skipIf (s.readV x == s.readV y))

/-- `SNE Vx, Vy` (R60). -/
def execSneReg (x y : Reg) (s : State) : Host.Outcome State Fault Refusal :=
  .next (s.skipIf (s.readV x != s.readV y))

end Sys2Proof.Machine
end

