-- ==== Sys2Proof/Machine/Display.lean ====
section
/-! DEFINITION. The display instructions (40_display.md): `CLS` and `DRW`. -/

namespace Sys2Proof.Machine

/-- `CLS` (R52): every lit cell is turned off with one `ClearPixel`, in row-major order (D14). -/
def execCls (s : State) : Host.Outcome State Fault Refusal :=
  .next (s.applyDrawing (flipCells s.fb (litCells s.fb))).advance

/-- `DRW Vx, Vy, n` (R53): the whole range `I .. I+n-1` is checked first (D12; `n = 0` never faults), the origin is
read before `VF` is written (D13), the cells are flipped, and `VF` is the collision. -/
def execDrw (x y : Reg) (n : Fin 16) (s : State) : Host.Outcome State Fault Refusal :=
  let o := spriteOrigin s x y
  let d := flipCells s.fb (spriteCells o.1 o.2 (s.mem.readBytes s.index.toNat n.val))
  let drawn := ((s.applyDrawing d).writeFlag d.collision).advance
  .next (if n = 0 then drawn else s.withAccess s.index n.val .spriteRead drawn)

end Sys2Proof.Machine
end

