-- ==== Sys2Proof/Machine/IndexMemory.lean ====
section
/-! DEFINITION. The index register and memory instructions (43_index_memory.md). No access changes `I`. -/

namespace Sys2Proof.Machine

/-- `LD I, nnn` (R73). -/
def execLdI (nnn : Addr) (s : State) : Host.Outcome State Fault Refusal :=
  .next (s.writeIndex (addrOperand nnn)).advance

/-- `ADD I, Vx` (R74): the sum modulo 65536, not masked to 12 bits (D2); `VF` is the 12-bit overflow (D3). -/
def execAddI (x : Reg) (s : State) : Host.Outcome State Fault Refusal :=
  let a := s.index
  let b := s.readV x
  .next ((s.writeIndex (a + b.setWidth 16)).writeFlag (indexOverflow a b)).advance

/-- `LD F, Vx` (R75). -/
def execLdF (x : Reg) (s : State) : Host.Outcome State Fault Refusal :=
  .next (s.writeIndex (glyphAddr (s.readV x))).advance

/-- `LD B, Vx` (R76). -/
def execLdB (x : Reg) (s : State) : Host.Outcome State Fault Refusal :=
  .next (s.withAccess s.index 3 .bcdWrite
    (s.writeBytes s.index.toNat (bcdDigits (s.readV x))).advance)

/-- `LD [I], Vx` (R77). -/
def execLdMemVx (x : Reg) (s : State) : Host.Outcome State Fault Refusal :=
  .next (s.withAccess s.index (x.val + 1) .storeRegs
    (s.writeBytes s.index.toNat (regBlock s x)).advance)

/-- `LD Vx, [I]` (R78). -/
def execLdVxMem (x : Reg) (s : State) : Host.Outcome State Fault Refusal :=
  .next (s.withAccess s.index (x.val + 1) .loadRegs
    { s with v := loadBlock s x }.advance)

end Sys2Proof.Machine
end

