-- ==== Sys2Proof/Machine/KeysTimers.lean ====
section
/-! DEFINITION. The key and timer instructions (44_keys_timers.md). -/

namespace Sys2Proof.Machine

/-- `SKP Vx` (R79). -/
def execSkp (x : Reg) (s : State) : Host.Outcome State Fault Refusal :=
  .next (s.skipIf (keyMatches s x))

/-- `SKNP Vx` (R80). -/
def execSknp (x : Reg) (s : State) : Host.Outcome State Fault Refusal :=
  .next (s.skipIf (!keyMatches s x))

/-- `LD Vx, DT` (R81). -/
def execLdVxDt (x : Reg) (s : State) : Host.Outcome State Fault Refusal :=
  .next (s.writeV x s.dt).advance

/-- `LD Vx, K` (R82): record the destination in the pending-wait slot; `Vx` is written by a later press (D16). -/
def execLdVxK (x : Reg) (s : State) : Host.Outcome State Fault Refusal :=
  .next (s.writeWait (some x)).advance

/-- `LD DT, Vx` (R83). -/
def execLdDtVx (x : Reg) (s : State) : Host.Outcome State Fault Refusal :=
  .next (s.writeDT (s.readV x)).advance

/-- `LD ST, Vx` (R84): the beep edge is checked after the cycle, not here (R102). -/
def execLdStVx (x : Reg) (s : State) : Host.Outcome State Fault Refusal :=
  .next (s.writeST (s.readV x)).advance

end Sys2Proof.Machine
end

