-- ==== Sys2Proof/Machine/Driver.lean ====
section
/-! DEFINITION. The execution cycle, the tick, the host operations and construction (45_execution_cycle.md,
60_exceptions.md, 70_reset_and_hazards.md). `step` (Machine/Step.lean) runs the same parts one cycle at a time. -/

namespace Sys2Proof.Machine

/-- `Fetch` (R86): the two bytes at `pc`, or none when they reach past the end of memory. -/
def fetch (s : State) : Option (Byte × Byte) :=
  if inRange s.pc.toNat 2 then some (s.readByte s.pc.toNat, s.readByte (s.pc.toNat + 1)) else none

/-- `Cycle` (R87): fetch, decode, execute; the checks in that order (R98). -/
def cycle (s : State) : Host.Outcome State Fault Refusal :=
  match fetch s with
  | none => .next (s.raise (.outOfRange s.pc 2 .fetch))
  | some (b1, b2) =>
    match decode b1 b2 with
    | .error (.decodeFailure op) => .next (s.raise (.decodeFailure op))
    | .ok i => exec i s

/-- `max(t - 1, 0)` on a timer (R101). -/
def countDown (t : Byte) : Byte := if t = 0 then 0 else t - 1

/-- The decrement at the start of a tick (R101). -/
def State.decrementTimers (s : State) : State := { s with dt := countDown s.dt, st := countDown s.st }

/-- `beeping <- b` (R22). -/
def State.writeBeeping (s : State) (b : Bool) : State := { s with beeping := b }

/-- `BeepEdge` (R102). -/
def State.beepEdge (s : State) : State :=
  if s.st ≠ 0 ∧ s.beeping = false then (s.writeBeeping true).emit .startBeep
  else if s.st = 0 ∧ s.beeping = true then (s.writeBeeping false).emit .stopBeep
  else s

/-- `IPT = CLOCK_HZ / 60` (R89, D19). -/
def State.ipt (s : State) : Nat := s.params.clockHz / 60

/-- `Press(k)` (R106). -/
def State.press (s : State) (k : Key) : State :=
  match s.wait with
  | none => s.writeKey (some k)
  | some x => ((s.writeKey (some k)).writeV x (BitVec.ofNat 8 k.val)).writeWait none

/-- `Release()` (R107). -/
def State.release (s : State) : State := s.writeKey none

/-- The loop of R90: at most `k` cycles, each followed by the beep edge unless it faults (D10), ended by a fault or
a pending wait (D15). -/
def runCycles : Nat → State → Host.Outcome State Fault Refusal
  | 0, s => .next s
  | k + 1, s =>
    match cycle s with
    | .next t =>
      if t.fault.isSome then .next t
      else if t.beepEdge.wait.isSome then .next t.beepEdge
      else runCycles k t.beepEdge
    | .fault r => .fault r
    | .refused r => .refused r

/-- `Tick()` (R90) on a core that has not faulted. -/
def tickBody (s : State) : Host.Outcome State Fault Refusal :=
  let t := s.decrementTimers
  if t.wait.isSome then .next t else runCycles t.ipt t

/-- One host operation run to completion (R85); on a faulted core none has a move (R96). -/
def hostOp (op : HostOp) (s : State) : Host.Outcome State Fault Refusal :=
  match s.fault with
  | some r => .fault (.halted r)
  | none =>
    match op with
    | .tick => tickBody s
    | .press k => .next (s.press k)
    | .release => .next s.release

/-- A run (R94): the operations of a host script in order, ended by the first fault. -/
def runScript : List HostOp → State → Host.Outcome State Fault Refusal
  | [], s => .next s
  | op :: rest, s =>
    match hostOp op s with
    | .next t => if t.fault.isSome then .next t else runScript rest t
    | .fault r => .fault r
    | .refused r => .refused r

/-- Why `Construct` makes no machine. -/
inductive ConstructError where
  /-- R95 code 5: the ROM has `len` bytes, more than 3584 (R112) -/
  | romTooLarge (len : Nat)
  /-- `CLOCK_HZ < 60` (R112, D19) -/
  | clockRefused (clockHz : Nat)
  deriving DecidableEq, Repr

/-- The code of `RomTooLarge` (R95, D22); the spec gives a refused clock rate none. -/
def ConstructError.code : ConstructError → Option Nat
  | .romTooLarge _ => some 5
  | .clockRefused _ => none

/-- `Construct(rom, CLOCK_HZ)` (R112), with the other parameters of R6: the font table and the stack limit. DESIGN
CHOICE: R6 allows no STACK_LIMIT of 0 and states no outcome for one; it is accepted here, and every `CALL` then
overflows (log 33). -/
def construct (font : Vector Byte 80) (stackLimit : Option Nat) (rom : List Byte) (clockHz : Nat) :
    Except ConstructError State :=
  if ¬ romWellFormed rom then .error (.romTooLarge rom.length)
  else if clockHz < 60 then .error (.clockRefused clockHz)
  else .ok { State.reset with
    mem := (Memory.writeBytes [] 0x50 font.toList).writeBytes 0x200 rom
    params := { clockHz := clockHz, stackLimit := stackLimit } }

/-- The host's next operation and the state without it. An empty script stands for a host that goes on ticking
(R93 "at a steady 60 Hz cadence"; log 2). -/
def State.takeOp (s : State) : HostOp × State :=
  match s.script with
  | [] => (.tick, s)
  | op :: rest => (op, { s with script := rest })

/-- Set how many cycles of the tick in progress are left. -/
def State.withCycles (s : State) (n : Nat) : State := { s with cyclesLeft := n }

/-- What follows a cycle inside a tick (R90): a fault ends the tick; otherwise the beep edge, and the tick ends early
on a pending wait. -/
def State.afterCycle (s : State) : State :=
  if s.fault.isSome then s.withCycles 0
  else if s.beepEdge.wait.isSome then s.beepEdge.withCycles 0
  else s.beepEdge.withCycles (s.cyclesLeft - 1)

/-- One turn of the loop of R90: a cycle and what follows it. -/
def cycleSlot (s : State) : Host.Outcome State Fault Refusal :=
  match cycle s with
  | .next t => .next t.afterCycle
  | .fault r => .fault r
  | .refused r => .refused r

/-- The start of a tick (R90): the timers, and then the first of IPT cycles unless a wait is pending. -/
def startTick (s : State) : Host.Outcome State Fault Refusal :=
  let t := s.decrementTimers
  if t.wait.isSome || t.ipt == 0 then .next t else cycleSlot (t.withCycles t.ipt)

/-- Between ticks: the host's next operation (R92). -/
def betweenTicks (s : State) : Host.Outcome State Fault Refusal :=
  match s.takeOp.1 with
  | .tick => startTick s.takeOp.2
  | .press k => .next (s.takeOp.2.press k)
  | .release => .next s.takeOp.2.release

/-- One move of a core that has not faulted: the next cycle of the tick in progress, or the host's next operation. -/
def move (s : State) : Host.Outcome State Fault Refusal :=
  if s.cyclesLeft = 0 then betweenTicks s else cycleSlot s

/-- Store a word where the next fetch reads it, high byte first (R32), if it lies in memory. -/
def State.storeFetchWord (s : State) (op : Word) : State :=
  if inRange s.pc.toNat 2 then s.writeBytes s.pc.toNat [highByte op, lowByte op] else s

/-- Make the very next step a cycle: no fault, no pending wait, and between ticks a Tick as the host's next
operation. -/
def State.readyToFetch (s : State) : State :=
  { s with
    fault := none
    wait := none
    script := if s.cyclesLeft = 0 ∧ s.takeOp.1 ≠ .tick then .tick :: s.script else s.script }

end Sys2Proof.Machine
end

