-- ==== Sys2Proof/Machine/Step.lean ====
section
/-! DEFINITION. One step of the machine, and the state that fetches a given word next. -/

namespace Sys2Proof.Machine

/-- One step: a core that has faulted has no move (R96); any other makes its next move, a cycle of the tick in
progress or, between ticks, the host's next operation, whose Tick runs the timers and its first cycle (log 1). -/
def step (s : State) : Host.Outcome State Fault Refusal :=
  match s.fault with
  | some r => .fault (.halted r)
  | none => move s

/-- The state whose next step fetches and runs the instruction with bits `w`, numbered as spec/opcode_table.json
numbers them (log 28). -/
def State.withFetchWord (s : State) (nbits w : Nat) : State :=
  (s.storeFetchWord (BitVec.ofNat 16 (w % 2 ^ nbits))).readyToFetch

end Sys2Proof.Machine
end

