-- ==== Sys2Proof/Safety.lean ====
section
/-! DEFINITION. The terms claims are stated in: what a change of state leaves alone, what the event sequence says, and
the invariants that rule out the states no run reaches. -/

namespace Sys2Proof.Machine

/-- A part of the state, for frames. -/
inductive Part where
  | regs | index | pc | stack | dt | st | display | key | wait | beeping | fault | memory | events | params | draws
  | cyclesLeft | script
  deriving DecidableEq, Repr

/-- `t` is `s` in every part but those listed; memory is compared by reading each byte of it. -/
def SameExcept (parts : List Part) (s t : State) : Prop :=
  (Part.regs ∉ parts → t.v = s.v) ∧
  (Part.index ∉ parts → t.index = s.index) ∧
  (Part.pc ∉ parts → t.pc = s.pc) ∧
  (Part.stack ∉ parts → t.stack = s.stack) ∧
  (Part.dt ∉ parts → t.dt = s.dt) ∧
  (Part.st ∉ parts → t.st = s.st) ∧
  (Part.display ∉ parts → t.fb = s.fb) ∧
  (Part.key ∉ parts → t.key = s.key) ∧
  (Part.wait ∉ parts → t.wait = s.wait) ∧
  (Part.beeping ∉ parts → t.beeping = s.beeping) ∧
  (Part.fault ∉ parts → t.fault = s.fault) ∧
  (Part.memory ∉ parts → ∀ a, t.readByte a = s.readByte a) ∧
  (Part.events ∉ parts → t.events = s.events) ∧
  (Part.params ∉ parts → t.params = s.params) ∧
  (Part.draws ∉ parts → t.draws = s.draws) ∧
  (Part.cyclesLeft ∉ parts → t.cyclesLeft = s.cyclesLeft) ∧
  (Part.script ∉ parts → t.script = s.script)

/-- Every register but those listed holds what it held. -/
def RegsSameExcept (regs : List Reg) (s t : State) : Prop :=
  ∀ k, k ∉ regs → t.readV k = s.readV k

/-- Every byte of memory outside the `n` bytes at `addr` reads as before. -/
def BytesSameOutside (addr n : Nat) (s t : State) : Prop :=
  ∀ a, a < addr ∨ addr + n ≤ a → t.readByte a = s.readByte a

/-- The outcome is `s` with the fault record of R96 and nothing else changed: the address of the faulting instruction, the
cause with its information, and with them the code and the name that R95 gives the fault. -/
def RaisesFault (o : Host.Outcome State Fault Refusal) (s : State) (c : FaultCause) (code : Nat) (name : String) : Prop :=
  o = .next { s with fault := some { pc := s.pc, cause := c } } ∧ c.code = code ∧ c.name = name

/-- Whether the instruction is a skip whose condition holds (R57 to R60, R79, R80). -/
def skipTaken (i : Instr) (s : State) : Bool :=
  match i with
  | .seImm x nn => s.readV x == nn
  | .sneImm x nn => s.readV x != nn
  | .seReg x y => s.readV x == s.readV y
  | .sneReg x y => s.readV x != s.readV y
  | .skp x => s.key.map Fin.val == some (s.readV x).toNat
  | .sknp x => s.key.map Fin.val != some (s.readV x).toNat
  | .cls | .ret | .jp _ | .call _ | .ldImm _ _ | .addImm _ _ | .ldReg _ _ | .and _ _ | .xor _ _ | .addReg _ _
  | .sub _ _ | .shr _ _ | .subn _ _ | .shl _ _ | .ldI _ | .rnd _ _ | .drw _ _ _ | .ldVxDt _ | .ldVxK _ | .ldDtVx _
  | .ldStVx _ | .addI _ | .ldF _ | .ldB _ | .ldMemVx _ | .ldVxMem _ => false

/-- Whether the sprite of `Dxyn` covers the cell at `px`, `py` with a 1 bit: the origin is wrapped onto the grid, a row
has 8 columns with the high bit leftmost, and row `r` is the byte at `I + r` (R53). -/
def spriteCovers (s : State) (x y : Reg) (n : Fin 16) (px py : Nat) : Bool :=
  let ox := (s.readV x).toNat % 64
  let oy := (s.readV y).toNat % 32
  decide (ox ≤ px ∧ px < ox + 8 ∧ oy ≤ py ∧ py < oy + n.val) &&
    (s.readByte (s.index.toNat + (py - oy))).getLsbD (7 - (px - ox))

/-! ### What the event sequence says (R104, R105) -/

/-- A call of the Audio capability (R105). -/
def Event.isAudio : Event → Bool
  | .startBeep | .stopBeep => true
  | .drawPixel _ _ | .clearPixel _ _ => false

/-- A call of the Graphics capability (R104). -/
def Event.isGraphics (e : Event) : Bool := !e.isAudio

/-- One call of the Graphics capability on a display: it must flip a cell of the grid, `DrawPixel` one that is off and
`ClearPixel` one that is on. The Audio calls leave the display alone. -/
def displayEvent (fb : Framebuffer) : Event → Option Framebuffer
  | .drawPixel x y => if x < 64 ∧ y < 32 ∧ fb.get x y = false then some (fb.set x y true) else none
  | .clearPixel x y => if x < 64 ∧ y < 32 ∧ fb.get x y = true then some (fb.set x y false) else none
  | .startBeep => some fb
  | .stopBeep => some fb

/-- The display a sequence of events draws from `fb` on, or none if one of them flips nothing. -/
def displayAfter : List Event → Framebuffer → Option Framebuffer
  | [], fb => some fb
  | e :: rest, fb => (displayEvent fb e).bind (displayAfter rest)

/-- One call of the Audio capability: `StartBeep` only when silent, `StopBeep` only when beeping. -/
def audioEvent (on : Bool) : Event → Option Bool
  | .startBeep => if on then none else some true
  | .stopBeep => if on then some false else none
  | .drawPixel _ _ => some on
  | .clearPixel _ _ => some on

/-- Whether the beep is on after a sequence of events, or none if a call is redundant. -/
def audioAfter : List Event → Bool → Option Bool
  | [], on => some on
  | e :: rest, on => (audioEvent on e).bind (audioAfter rest)

/-! ### Invariants -/

/-- The program counter and every return address lie where the rules can put them: `pc` at most `0x1002`, an entry of
the stack at most `0xFFE` (R15, R88). -/
def State.addressesBounded (s : State) : Prop :=
  s.pc.toNat ≤ 0x1002 ∧ ∀ a ∈ s.stack, a.toNat ≤ 0xFFE

/-- The call stack is within `STACK_LIMIT`, where there is one (R56). -/
def State.stackBounded (s : State) : Prop :=
  ∀ n, s.params.stackLimit = some n → s.stack.length ≤ n

/-- No tick is in progress while a key wait is pending or after a fault, and a tick runs at most IPT cycles (R90). -/
def State.driverConsistent (s : State) : Prop :=
  (s.wait.isSome → s.cyclesLeft = 0) ∧ (s.fault.isSome → s.cyclesLeft = 0) ∧ s.cyclesLeft ≤ s.ipt

/-- The invariant of the machine: what holds at reset and every step keeps. -/
structure State.Inv (s : State) : Prop where
  memory : s.mem.wf = true
  addresses : s.addressesBounded
  stack : s.stackBounded
  driver : s.driverConsistent

/-- The framebuffer is what the emitted events draw from an all-off grid (R104). -/
def State.displayMirrored (s : State) : Prop :=
  displayAfter s.events Framebuffer.allOff = some s.fb

/-- The audio events alternate, `StartBeep` first, and `beeping` is what they left (R105, R22). -/
def State.audioAlternates (s : State) : Prop :=
  audioAfter s.events false = some s.beeping

/-- A safe run: `k` steps of the machine from `s` all answer a next state, and the last of them has not faulted. -/
def SafeRun (k : Nat) (s : State) : Prop :=
  match k with
  | 0 => s.fault = none
  | k + 1 => s.fault = none ∧ ∃ t, step s = .next t ∧ SafeRun k t

end Sys2Proof.Machine
end

