-- ==== Sys2Proof/Certificates/Slice0/Obligations.lean ====
section
/-! DEFINITION. The statements for the provers. Each docstring names the rules of spec/ it formalises; OBLIGATIONS.json
says which are stated by a rule and which are derived, and on which decision of the spec a derived one rests. -/

open Sys2Proof Sys2Proof.Machine

/-! ### Encoding (30_encoding.md) -/

/-- Decoding the two bytes of an encoded instruction gives it back, whatever its operands (R45, R46). -/
def Obligations.DecodeOfEncodeIsTheInstruction : Prop :=
  ∀ i : Instr, decode (highByte (encode i)) (lowByte (encode i)) = .ok i ∧ i.wellFormed = true

/-- A word that decodes is the encoding of what it decodes to: no word has two meanings and no operand bit is
dropped (R42, R46). -/
def Obligations.EncodeOfDecodeIsTheWord : Prop :=
  ∀ (op : Word) (i : Instr), decodeWord op = .ok i → encode i = op

/-- Every word selects exactly one row of the decode table and decodes to that row's instruction, or selects none and
is a decode failure (R45, R47). -/
def Obligations.EveryWordHasOneRowOrFails : Prop :=
  ∀ op : Word,
    (∃ i, decodeWord op = .ok i ∧ decodeTable.filter (matchesRow op) = [tableRow i]) ∨
    (decodeWord op = .error (.decodeFailure op) ∧ decodeTable.filter (matchesRow op) = [])

/-- Words written out from the spec's encodings decode to the instructions they stand for, and words of the failing
spaces fail (R45, R47; vectors of 95_test_vectors.md section 2). That `B123` fails is the spec's decision D6 on its
conflict C4, and that `8AB1` fails its reading of a table that leaves `8xy1` out; both are log 12 (DESIGN CHOICE). -/
def Obligations.WrittenOutWordsDecode : Prop :=
  decode 0x00 0xE0 = .ok .cls ∧ decode 0x2A 0xBC = .ok (.call 0xABC) ∧ decode 0x3A 0x42 = .ok (.seImm 10 0x42) ∧
  decode 0x8A 0xB4 = .ok (.addReg 10 11) ∧ decode 0x8A 0xBE = .ok (.shl 10 11) ∧ decode 0xA1 0x23 = .ok (.ldI 0x123) ∧
  decode 0xD1 0x25 = .ok (.drw 1 2 5) ∧ decode 0xE5 0xA1 = .ok (.sknp 5) ∧ decode 0xF5 0x33 = .ok (.ldB 5) ∧
  decode 0x00 0x00 = .error (.decodeFailure 0x0000) ∧ decode 0x8A 0xB1 = .error (.decodeFailure 0x8AB1) ∧
  decode 0xB1 0x23 = .error (.decodeFailure 0xB123)

/-! ### The cycle and the step (45_execution_cycle.md) -/

/-- Fetch reads the bytes at `pc` and `pc + 1`; where they reach past `0xFFF` the cycle faults instead (R86). -/
def Obligations.FetchReadsTwoBytesOrFaults : Prop :=
  ∀ s : State,
    (s.pc.toNat + 2 ≤ 4096 → fetch s = some (s.readByte s.pc.toNat, s.readByte (s.pc.toNat + 1))) ∧
    (4096 < s.pc.toNat + 2 →
      cycle s = .next { s with fault := some { pc := s.pc, cause := .outOfRange s.pc 2 .fetch } })

/-- A word that does not decode raises `DecodeFailure`, code 1, with the word, and nothing else changes (R47, R87,
R95, R96; the number of the code is the spec's decision D22, log 23). That nothing else changes is D11 (log 16). -/
def Obligations.UndecodableWordFaults : Prop :=
  ∀ (s : State) (op : Word), s.pc.toNat + 2 ≤ 4096 →
    s.readByte s.pc.toNat ++ s.readByte (s.pc.toNat + 1) = op → (∀ i, decodeWord op ≠ .ok i) →
    RaisesFault (cycle s) s (.decodeFailure op) 1 "DecodeFailure"

/-- In the middle of a tick, a step at bytes that decode to `i` is `exec i`, followed by what follows a cycle: the beep
edge, and one cycle less of the tick (R87, R90; that a step is one cycle is the model's choice, log 1). -/
def Obligations.StepRunsTheDecodedInstruction : Prop :=
  ∀ (s : State) (i : Instr), s.fault = none → 0 < s.cyclesLeft → s.pc.toNat + 2 ≤ 4096 →
    decode (s.readByte s.pc.toNat) (s.readByte (s.pc.toNat + 1)) = .ok i →
    ∃ t, exec i s = .next t ∧ step s = .next t.afterCycle

/-- Between ticks, where the host ticks and no wait is pending, a step counts the timers down and then runs the
instruction at `pc` as the first of IPT cycles (R90, R101; that one step does both is the model's choice, log 1, and
IPT the spec's decision D19, log 21). -/
def Obligations.TickStartRunsTheDecodedInstruction : Prop :=
  ∀ (s : State) (i : Instr), s.fault = none → s.cyclesLeft = 0 → s.takeOp.1 = .tick → s.wait = none → 0 < s.ipt →
    s.pc.toNat + 2 ≤ 4096 → decode (s.readByte s.pc.toNat) (s.readByte (s.pc.toNat + 1)) = .ok i →
    ∃ t, exec i { s with dt := countDown s.dt, st := countDown s.st, script := s.script.tail, cyclesLeft := s.ipt }
        = .next t ∧ step s = .next t.afterCycle

/-- What follows a cycle in a tick (R90, R96): a fault ends the tick with no beep edge; a pending wait ends it after
the beep edge; otherwise one cycle less is left. That a fault is not followed by the beep edge is the spec's decision
D10 (DESIGN CHOICE, log 15), that a wait ends the tick D15 (log 18); the count of cycles left is the model's own (log
1). -/
def Obligations.TickEndsOnFaultOrWait : Prop :=
  ∀ t : State,
    (t.fault ≠ none → t.afterCycle = { t with cyclesLeft := 0 }) ∧
    (t.fault = none → t.wait ≠ none → t.afterCycle = { t.beepEdge with cyclesLeft := 0 }) ∧
    (t.fault = none → t.wait = none → t.afterCycle = { t.beepEdge with cyclesLeft := t.cyclesLeft - 1 })

/-- No instruction stops the model, and a core that has not faulted always has a next step. Two choices of the model
stand in this: an instruction that faults answers a next state, with the record in it (DESIGN CHOICE, log 27), and
where the host's script is empty the next step is a tick (DESIGN CHOICE, log 2). -/
def Obligations.OnlyAFaultedCoreStops : Prop :=
  (∀ (i : Instr) (s : State), ∃ t, exec i s = .next t) ∧ (∀ s : State, s.fault = none → ∃ t, step s = .next t)

/-- A faulted core has no move: neither a step nor any host operation (R96, R97). This is the spec's decision D10
(DESIGN CHOICE, log 15). -/
def Obligations.FaultedCoreHasNoMove : Prop :=
  ∀ (s : State) (r : FaultRecord), s.fault = some r →
    step s = .fault (.halted r) ∧ ∀ op, hostOp op s = .fault (.halted r)

/-- A cycle that faults writes the fault record and nothing else, and the record holds the address of the instruction
that faulted (R87, R96). That no part of the instruction's effect is kept is the spec's decision D11 (DESIGN CHOICE,
log 16); the fault is a next state by log 27. -/
def Obligations.FaultingCycleWritesOnlyTheRecord : Prop :=
  ∀ (s t : State) (r : FaultRecord), s.fault = none → cycle s = .next t → t.fault = some r →
    r.pc = s.pc ∧ t = { s with fault := some r }

/-- A step that faults ends the tick and otherwise leaves the state as it was, but for the timers and the host's Tick
where the step began one (R96). That no part of the instruction's effect is kept is the spec's decision D11 (DESIGN
CHOICE, log 16); that a step is a cycle is log 1 and the fault a next state log 27. -/
def Obligations.FaultingStepKeepsTheState : Prop :=
  ∀ (s t : State) (r : FaultRecord), s.fault = none → step s = .next t → t.fault = some r →
    r.pc = s.pc ∧
    (0 < s.cyclesLeft → t = { s with fault := some r, cyclesLeft := 0 }) ∧
    (s.cyclesLeft = 0 →
      t = { s with fault := some r, script := s.script.tail, dt := countDown s.dt, st := countDown s.st })

/-! ### Control flow (41_control_flow.md) -/

/-- `JP` sets `pc` to its target and changes nothing else (R55). -/
def Obligations.JumpSetsThePc : Prop :=
  ∀ (s : State) (nnn : Addr), ∃ t, exec (.jp nnn) s = .next t ∧ t.pc.toNat = nnn.toNat ∧ SameExcept [.pc] s t ∧
    matchesRow (encode (.jp nnn)) (0x1000, 0xF000) = true

/-- `CALL` pushes its own address and sets `pc`, where the stack is not at its limit (R56). The address pushed is the
reading of conflict C3 (log 26); that a limit is a parameter is the spec's decision D8 (DESIGN CHOICE, log 13). -/
def Obligations.CallPushesItsAddress : Prop :=
  ∀ (s : State) (nnn : Addr), s.params.stackLimit ≠ some s.stack.length →
    ∃ t, exec (.call nnn) s = .next t ∧ t.stack = s.stack ++ [s.pc] ∧ t.pc.toNat = nnn.toNat ∧
      SameExcept [.stack, .pc] s t

/-- `RET` removes the last entry of the stack and resumes two bytes after it (R54, C3). The two bytes are the reading
of conflict C3 (log 26). -/
def Obligations.ReturnPopsAndResumes : Prop :=
  ∀ (s : State) (below : List Word) (a : Word), s.stack = below ++ [a] →
    ∃ t, exec .ret s = .next t ∧ t.stack = below ∧ t.pc = a + 2 ∧ SameExcept [.stack, .pc] s t

/-- `RET` on an empty stack raises `StackUnderflow`, code 3, `CALL` on a stack at its limit `StackOverflow`, code 4, and
neither writes anything else (R54, R56, R95, R96; that a limit exists at all is the parameter of the spec's decision
D8, log 13, and the numbers of the codes are D22, log 23). -/
def Obligations.StackFaultsWriteOnlyTheRecord : Prop :=
  ∀ (s : State) (nnn : Addr),
    (s.stack = [] → RaisesFault (exec .ret s) s .stackUnderflow 3 "StackUnderflow") ∧
    (s.params.stackLimit = some s.stack.length →
      RaisesFault (exec (.call nnn) s) s .stackOverflow 4 "StackOverflow")

/-- A call and then a return restore the stack and resume after the call, with nothing else changed (R54, R56, S8).
The reading is that of conflict C3 (log 26), and the limit D8's (log 13). -/
def Obligations.CallThenReturnResumesAfterTheCall : Prop :=
  ∀ (s : State) (nnn : Addr), s.params.stackLimit ≠ some s.stack.length →
    ∃ t u, exec (.call nnn) s = .next t ∧ exec .ret t = .next u ∧ u = { s with pc := s.pc + 2 }

/-- `SE Vx, nn` and `SNE Vx, nn` skip one instruction on their condition and change only `pc` (R57, R58). -/
def Obligations.ImmediateSkips : Prop :=
  ∀ (s : State) (x : Reg) (nn : Byte),
    (∃ t, exec (.seImm x nn) s = .next t ∧ t.pc = s.pc + (if s.readV x = nn then 4 else 2) ∧
      SameExcept [.pc] s t ∧ matchesRow (encode (.seImm x nn)) (0x3000, 0xF000) = true) ∧
    (∃ t, exec (.sneImm x nn) s = .next t ∧ t.pc = s.pc + (if s.readV x ≠ nn then 4 else 2) ∧
      SameExcept [.pc] s t ∧ matchesRow (encode (.sneImm x nn)) (0x4000, 0xF000) = true)

/-- `SE Vx, Vy` and `SNE Vx, Vy` skip one instruction on their condition and change only `pc` (R59, R60). -/
def Obligations.RegisterSkips : Prop :=
  ∀ (s : State) (x y : Reg),
    (∃ t, exec (.seReg x y) s = .next t ∧ t.pc = s.pc + (if s.readV x = s.readV y then 4 else 2) ∧
      SameExcept [.pc] s t ∧ matchesRow (encode (.seReg x y)) (0x5000, 0xF00F) = true) ∧
    (∃ t, exec (.sneReg x y) s = .next t ∧ t.pc = s.pc + (if s.readV x ≠ s.readV y then 4 else 2) ∧
      SameExcept [.pc] s t ∧ matchesRow (encode (.sneReg x y)) (0x9000, 0xF00F) = true)

/-- `SKP` skips exactly when the latched key is the number in `Vx`, `SKNP` exactly when it is not; with no key latched
`SKP` never skips, and a `Vx` above 15 never matches (R79, R80, D25). D25 is the spec's decision (DESIGN CHOICE, log
24). -/
def Obligations.KeySkips : Prop :=
  ∀ (s : State) (x : Reg),
    (∃ t, exec (.skp x) s = .next t ∧
      t.pc = s.pc + (if s.key.map Fin.val = some (s.readV x).toNat then 4 else 2) ∧ SameExcept [.pc] s t) ∧
    (∃ t, exec (.sknp x) s = .next t ∧
      t.pc = s.pc + (if s.key.map Fin.val = some (s.readV x).toNat then 2 else 4) ∧ SameExcept [.pc] s t)

/-! ### Arithmetic and logic (42_alu.md) -/

/-- `LD Vx, nn` and `LD Vx, Vy` write `Vx` alone (R62, R64). -/
def Obligations.LoadsWriteTheRegister : Prop :=
  ∀ (s : State) (x y : Reg) (nn : Byte),
    (∃ t, exec (.ldImm x nn) s = .next t ∧ t.readV x = nn ∧ RegsSameExcept [x] s t ∧ t.pc = s.pc + 2 ∧
      SameExcept [.regs, .pc] s t ∧ matchesRow (encode (.ldImm x nn)) (0x6000, 0xF000) = true) ∧
    (∃ t, exec (.ldReg x y) s = .next t ∧ t.readV x = s.readV y ∧ RegsSameExcept [x] s t ∧ t.pc = s.pc + 2 ∧
      SameExcept [.regs, .pc] s t ∧ matchesRow (encode (.ldReg x y)) (0x8000, 0xF00F) = true)

/-- `ADD Vx, nn` adds modulo 256 and writes no flag: every register but `Vx` is unchanged (R63). -/
def Obligations.AddImmediateWrapsWithoutFlag : Prop :=
  ∀ (s : State) (x : Reg) (nn : Byte),
    ∃ t, exec (.addImm x nn) s = .next t ∧ (t.readV x).toNat = ((s.readV x).toNat + nn.toNat) % 256 ∧
      RegsSameExcept [x] s t ∧ t.pc = s.pc + 2 ∧ SameExcept [.regs, .pc] s t ∧
      matchesRow (encode (.addImm x nn)) (0x7000, 0xF000) = true

/-- `AND` and `XOR` work bit by bit, write `Vx` alone and no flag (R65, R66, R14). -/
def Obligations.LogicWorksBitwise : Prop :=
  ∀ (s : State) (x y : Reg),
    (∃ t, exec (.and x y) s = .next t ∧
      (∀ k, (t.readV x).getLsbD k = ((s.readV x).getLsbD k && (s.readV y).getLsbD k)) ∧
      RegsSameExcept [x] s t ∧ t.pc = s.pc + 2 ∧ SameExcept [.regs, .pc] s t) ∧
    (∃ t, exec (.xor x y) s = .next t ∧
      (∀ k, (t.readV x).getLsbD k = ((s.readV x).getLsbD k ^^ (s.readV y).getLsbD k)) ∧
      RegsSameExcept [x] s t ∧ t.pc = s.pc + 2 ∧ SameExcept [.regs, .pc] s t)

/-- `ADD Vx, Vy`: the sum modulo 256, and `VF` is 1 exactly on a carry; with `x = F` the carry is what stays (R67; the
order of the two writes is the spec's decision D5). D5 is a DESIGN CHOICE, log 11. -/
def Obligations.AddRegisterSetsCarry : Prop :=
  ∀ (s : State) (x y : Reg),
    ∃ t, exec (.addReg x y) s = .next t ∧
      (x ≠ VF → (t.readV x).toNat = ((s.readV x).toNat + (s.readV y).toNat) % 256) ∧
      (t.readV VF).toNat = (if 255 < (s.readV x).toNat + (s.readV y).toNat then 1 else 0) ∧
      RegsSameExcept [x, VF] s t ∧ t.pc = s.pc + 2 ∧ SameExcept [.regs, .pc] s t

/-- `SUB` computes `Vx - Vy` and `SUBN` computes `Vy - Vx`, modulo 256, and `VF` is 1 exactly when there is no borrow;
with `x = F` the flag is what stays (R68, R70; the order of the two writes is the spec's decision D5). D5 is a DESIGN
CHOICE, log 11. -/
def Obligations.SubtractionsSetNoBorrow : Prop :=
  ∀ (s : State) (x y : Reg),
    (∃ t, exec (.sub x y) s = .next t ∧
      (x ≠ VF → ((t.readV x).toNat : Int) = (((s.readV x).toNat : Int) - (s.readV y).toNat) % 256) ∧
      (t.readV VF).toNat = (if (s.readV y).toNat ≤ (s.readV x).toNat then 1 else 0) ∧
      RegsSameExcept [x, VF] s t ∧ t.pc = s.pc + 2 ∧ SameExcept [.regs, .pc] s t) ∧
    (∃ t, exec (.subn x y) s = .next t ∧
      (x ≠ VF → ((t.readV x).toNat : Int) = (((s.readV y).toNat : Int) - (s.readV x).toNat) % 256) ∧
      (t.readV VF).toNat = (if (s.readV x).toNat ≤ (s.readV y).toNat then 1 else 0) ∧
      RegsSameExcept [x, VF] s t ∧ t.pc = s.pc + 2 ∧ SameExcept [.regs, .pc] s t)

/-- `SHR` halves `Vx` and `SHL` doubles it modulo 256, with the bit moved out in `VF`; with `x = F` the flag is
written first and then shifted, so `SHR` leaves 0 and `SHL` leaves twice bit 7. `Vy` plays no part (R69, R71; the
operand is the spec's decision D4, the order of the two writes D5). D4 is a DESIGN CHOICE, log 10, and so is D5, log
11. -/
def Obligations.ShiftsMoveOneBitOut : Prop :=
  ∀ (s : State) (x y : Reg),
    (∃ t, exec (.shr x y) s = .next t ∧
      (x ≠ VF → (t.readV x).toNat = (s.readV x).toNat / 2 ∧ (t.readV VF).toNat = (s.readV x).toNat % 2) ∧
      (x = VF → (t.readV VF).toNat = 0) ∧
      RegsSameExcept [x, VF] s t ∧ t.pc = s.pc + 2 ∧ SameExcept [.regs, .pc] s t) ∧
    (∃ t, exec (.shl x y) s = .next t ∧
      (x ≠ VF → (t.readV x).toNat = (s.readV x).toNat * 2 % 256 ∧ (t.readV VF).toNat = (s.readV x).toNat / 128) ∧
      (x = VF → (t.readV VF).toNat = 2 * ((s.readV x).toNat / 128)) ∧
      RegsSameExcept [x, VF] s t ∧ t.pc = s.pc + 2 ∧ SameExcept [.regs, .pc] s t)

/-- `RND` writes the oracle's next answer, whatever it is, masked with `nn`, and takes a fresh answer each time; with
`nn = 0` the result is 0 for every answer (R72, D20; the counter of answers is the model's own, log 4). -/
def Obligations.RandomIsMaskedFreshDraw : Prop :=
  ∀ (s : State) (x : Reg) (nn : Byte),
    ∃ t, exec (.rnd x nn) s = .next t ∧ t.readV x = Config.randomByte s.draws &&& nn ∧ t.draws = s.draws + 1 ∧
      (nn = 0 → t.readV x = 0) ∧ RegsSameExcept [x] s t ∧ t.pc = s.pc + 2 ∧ SameExcept [.regs, .pc, .draws] s t

/-! ### Index register and memory (43_index_memory.md) -/

/-- `LD I, nnn` sets `I` to its operand (R73). -/
def Obligations.LoadIndexSetsI : Prop :=
  ∀ (s : State) (nnn : Addr), ∃ t, exec (.ldI nnn) s = .next t ∧ t.index.toNat = nnn.toNat ∧ t.pc = s.pc + 2 ∧
    SameExcept [.index, .pc] s t ∧ matchesRow (encode (.ldI nnn)) (0xA000, 0xF000) = true

/-- `ADD I, Vx` adds modulo 65536 with no 12-bit mask, and `VF` is 1 exactly when the sum passes `0xFFF` (R74; the
missing mask is the spec's decision D2, the flag without overflow D3). D2 is a DESIGN CHOICE, log 8, and so is D3, log
9. -/
def Obligations.AddToIndexFlagsTwelveBitOverflow : Prop :=
  ∀ (s : State) (x : Reg),
    ∃ t, exec (.addI x) s = .next t ∧ t.index.toNat = (s.index.toNat + (s.readV x).toNat) % 65536 ∧
      (t.readV VF).toNat = (if 0xFFF < s.index.toNat + (s.readV x).toNat then 1 else 0) ∧
      RegsSameExcept [VF] s t ∧ t.pc = s.pc + 2 ∧ SameExcept [.index, .regs, .pc] s t

/-- `LD F, Vx` points `I` at `0x50 + 5 * Vx`, past the font for a `Vx` above 15 (R75). That a `Vx` above 15 is not
masked is log 24. -/
def Obligations.LoadFontAddress : Prop :=
  ∀ (s : State) (x : Reg), ∃ t, exec (.ldF x) s = .next t ∧ t.index.toNat = 0x50 + (s.readV x).toNat * 5 ∧
    t.pc = s.pc + 2 ∧ SameExcept [.index, .pc] s t

/-- `LD B, Vx` stores the three decimal digits of `Vx` at `I`, hundreds first, and no other byte (R76). -/
def Obligations.BcdStoresThreeDigits : Prop :=
  ∀ (s : State) (x : Reg), s.index.toNat + 3 ≤ 4096 →
    ∃ t, exec (.ldB x) s = .next t ∧
      (t.readByte s.index.toNat).toNat = (s.readV x).toNat / 100 ∧
      (t.readByte (s.index.toNat + 1)).toNat = (s.readV x).toNat % 100 / 10 ∧
      (t.readByte (s.index.toNat + 2)).toNat = (s.readV x).toNat % 10 ∧
      BytesSameOutside s.index.toNat 3 s t ∧ t.pc = s.pc + 2 ∧ SameExcept [.memory, .pc] s t

/-- `LD [I], Vx` stores `V0` to `Vx` at `I` on and no other byte; `I` is unchanged (R77). -/
def Obligations.StoreRegistersWritesTheBlock : Prop :=
  ∀ (s : State) (x : Reg), s.index.toNat + x.val + 1 ≤ 4096 →
    ∃ t, exec (.ldMemVx x) s = .next t ∧
      (∀ k : Reg, k ≤ x → t.readByte (s.index.toNat + k.val) = s.readV k) ∧
      BytesSameOutside s.index.toNat (x.val + 1) s t ∧ t.pc = s.pc + 2 ∧ SameExcept [.memory, .pc] s t

/-- `LD Vx, [I]` loads `V0` to `Vx` from `I` on, `VF` like the others, and no other register; `I` and memory are
unchanged (R78). -/
def Obligations.LoadRegistersReadsTheBlock : Prop :=
  ∀ (s : State) (x : Reg), s.index.toNat + x.val + 1 ≤ 4096 →
    ∃ t, exec (.ldVxMem x) s = .next t ∧
      (∀ k : Reg, k ≤ x → t.readV k = s.readByte (s.index.toNat + k.val)) ∧
      (∀ k : Reg, x < k → t.readV k = s.readV k) ∧ t.pc = s.pc + 2 ∧ SameExcept [.regs, .pc] s t

/-- An access through `I` that reaches past `0xFFF` raises `OutOfRange`, code 2, with its start, length and kind, and
writes nothing else; a sprite of no rows makes no access (R35, R53, R76, R77, R78, R95; that the check comes before
every write is the spec's decision D11, that it covers clipped rows D12, log 16, and the number of the code D22,
log 23). -/
def Obligations.OutOfRangeAccessesFault : Prop :=
  ∀ (s : State) (x y : Reg) (n : Fin 16),
    (0 < n.val → 4096 < s.index.toNat + n.val →
      RaisesFault (exec (.drw x y n) s) s (.outOfRange s.index n.val .spriteRead) 2 "OutOfRange") ∧
    (4096 < s.index.toNat + 3 →
      RaisesFault (exec (.ldB x) s) s (.outOfRange s.index 3 .bcdWrite) 2 "OutOfRange") ∧
    (4096 < s.index.toNat + x.val + 1 →
      RaisesFault (exec (.ldMemVx x) s) s (.outOfRange s.index (x.val + 1) .storeRegs) 2 "OutOfRange") ∧
    (4096 < s.index.toNat + x.val + 1 →
      RaisesFault (exec (.ldVxMem x) s) s (.outOfRange s.index (x.val + 1) .loadRegs) 2 "OutOfRange")

/-- What `LD [I], Vx` and `LD B, Vx` store is what a fetch reads from then on, at any address a fetch accepts: the stored
bytes (digit `k` of `Vx` counted from the hundreds) where the fetch meets them and the old ones elsewhere, with no
fence between (R39). -/
def Obligations.StoresAreSeenByFetches : Prop :=
  ∀ (s : State) (x : Reg) (p : Word), p.toNat + 2 ≤ 4096 →
    (s.index.toNat + x.val + 1 ≤ 4096 →
      ∃ t, exec (.ldMemVx x) s = .next t ∧
        ∃ b1 b2, fetch { t with pc := p } = some (b1, b2) ∧
          (∀ k : Reg, k ≤ x → p.toNat = s.index.toNat + k.val → b1 = s.readV k) ∧
          (∀ k : Reg, k ≤ x → p.toNat + 1 = s.index.toNat + k.val → b2 = s.readV k) ∧
          (p.toNat < s.index.toNat ∨ s.index.toNat + x.val < p.toNat → b1 = s.readByte p.toNat) ∧
          (p.toNat + 1 < s.index.toNat ∨ s.index.toNat + x.val < p.toNat + 1 → b2 = s.readByte (p.toNat + 1))) ∧
    (s.index.toNat + 3 ≤ 4096 →
      ∃ t, exec (.ldB x) s = .next t ∧
        ∃ b1 b2, fetch { t with pc := p } = some (b1, b2) ∧
          (∀ k, k < 3 → p.toNat = s.index.toNat + k → b1.toNat = (s.readV x).toNat / 10 ^ (2 - k) % 10) ∧
          (∀ k, k < 3 → p.toNat + 1 = s.index.toNat + k → b2.toNat = (s.readV x).toNat / 10 ^ (2 - k) % 10) ∧
          (p.toNat < s.index.toNat ∨ s.index.toNat + 3 ≤ p.toNat → b1 = s.readByte p.toNat) ∧
          (p.toNat + 1 < s.index.toNat ∨ s.index.toNat + 3 ≤ p.toNat + 1 → b2 = s.readByte (p.toNat + 1)))

/-- Two memories in canonical form that read the same at every address of the space are the same data (R27). The
canonical form is the model's own (log 7). -/
def Obligations.CanonicalMemoriesAreEqualWhenTheyReadEqual : Prop :=
  ∀ m1 m2 : Memory, m1.wf = true → m2.wf = true → (∀ a, a < 4096 → m1.read a = m2.read a) → m1 = m2

/-! ### Display (40_display.md) -/

/-- `CLS` turns every cell off and emits one `ClearPixel` for each cell that was on, row by row (R52; the order of the
events is the spec's decision D14). D14 is a DESIGN CHOICE, log 17. -/
def Obligations.ClearScreenTurnsAllCellsOff : Prop :=
  ∀ s : State, ∃ t, exec .cls s = .next t ∧ t.fb = Framebuffer.allOff ∧
    t.events = s.events ++ (gridCells.filter fun c => s.fb.get c.1 c.2).map (fun c => .clearPixel c.1 c.2) ∧
    t.pc = s.pc + 2 ∧ SameExcept [.display, .events, .pc] s t

/-- `DRW` flips exactly the cells its sprite covers, clipped at the right and bottom edges; `VF` is 1 exactly when a
covered cell was on; each flip emits one event, row by row and left to right (R53, R104; the origin before `VF` is the
spec's decision D13). D13 is a DESIGN CHOICE, log 11; that the range checked takes in clipped rows is D12 (log 16). -/
def Obligations.DrawFlipsTheCoveredCells : Prop :=
  ∀ (s : State) (x y : Reg) (n : Fin 16), n.val = 0 ∨ s.index.toNat + n.val ≤ 4096 →
    ∃ t, exec (.drw x y n) s = .next t ∧
      (∀ px py, px < 64 → py < 32 → t.fb.get px py = (s.fb.get px py ^^ spriteCovers s x y n px py)) ∧
      ((∃ px py, px < 64 ∧ py < 32 ∧ spriteCovers s x y n px py = true ∧ s.fb.get px py = true) →
        t.readV VF = 1) ∧
      ((∀ px py, px < 64 → py < 32 → spriteCovers s x y n px py = true → s.fb.get px py = false) →
        t.readV VF = 0) ∧
      t.events = s.events ++ (gridCells.filter fun c => spriteCovers s x y n c.1 c.2).map (flipEvent s.fb) ∧
      RegsSameExcept [VF] s t ∧ t.pc = s.pc + 2 ∧ SameExcept [.display, .events, .regs, .pc] s t

/-! ### Keys, timers and the tick (44_keys_timers.md, 45_execution_cycle.md, 60_exceptions.md) -/

/-- `LD Vx, DT` reads the delay timer, `LD DT, Vx` and `LD ST, Vx` set the timers; nothing else changes (R81, R83,
R84). -/
def Obligations.TimerMoves : Prop :=
  ∀ (s : State) (x : Reg),
    (∃ t, exec (.ldVxDt x) s = .next t ∧ t.readV x = s.dt ∧ RegsSameExcept [x] s t ∧ t.pc = s.pc + 2 ∧
      SameExcept [.regs, .pc] s t) ∧
    (∃ t, exec (.ldDtVx x) s = .next t ∧ t.dt = s.readV x ∧ t.pc = s.pc + 2 ∧ SameExcept [.dt, .pc] s t) ∧
    (∃ t, exec (.ldStVx x) s = .next t ∧ t.st = s.readV x ∧ t.pc = s.pc + 2 ∧ SameExcept [.st, .pc] s t)

/-- `LD Vx, K` records its destination in the pending-wait slot, advances, and writes no register, whatever key is
latched (R82, D16). D16 is a DESIGN CHOICE, log 18. -/
def Obligations.GetKeyRecordsTheWait : Prop :=
  ∀ (s : State) (x : Reg), ∃ t, exec (.ldVxK x) s = .next t ∧ t.wait = some x ∧ t.pc = s.pc + 2 ∧
    SameExcept [.wait, .pc] s t

/-- `Press(k)` latches the key; with a wait pending it also writes `k` to the register that waits and ends the wait,
and the key stays latched (R106, D17). D17 is the spec's decision on its conflict C1 (DESIGN CHOICE, log 19). -/
def Obligations.PressLatchesAndResolvesTheWait : Prop :=
  ∀ (s : State) (k : Key), s.fault = none →
    ∃ t, hostOp (.press k) s = .next t ∧ t.key = some k ∧ t.wait = none ∧
      (s.wait = none → SameExcept [.key] s t) ∧
      (∀ x, s.wait = some x → (t.readV x).toNat = k.val ∧ RegsSameExcept [x] s t ∧
        SameExcept [.key, .wait, .regs] s t)

/-- `Release()` clears the latch, whichever key it holds, and touches nothing else, a pending wait included (R107). -/
def Obligations.ReleaseClearsTheLatch : Prop :=
  ∀ s : State, s.fault = none → ∃ t, hostOp .release s = .next t ∧ t.key = none ∧ SameExcept [.key] s t

/-- A tick counts both timers down once, saturating at zero, before anything else, whether the core waits or runs
(R101, R90). That a running core then has `CLOCK_HZ / 60` cycles, by integer division, is the spec's decision D19
(DESIGN CHOICE, log 21), and that a waiting tick ends there with no beep edge is D18 (DESIGN CHOICE, log 20). -/
def Obligations.TickCountsTimersDownFirst : Prop :=
  ∀ s : State, s.fault = none →
    ∃ d : State, d.dt.toNat = s.dt.toNat - 1 ∧ d.st.toNat = s.st.toNat - 1 ∧ SameExcept [.dt, .st] s d ∧
      hostOp .tick s = (if s.wait = none then runCycles (s.params.clockHz / 60) d else .next d)

/-- While a key wait is pending a tick runs no cycle: only the timers change (R91, R90, R111). That `beeping` and the
events stay as they were even where `ST` reaches 0 is the spec's decision D18 on its conflict C6 (DESIGN CHOICE,
log 20). -/
def Obligations.WaitingTickRunsNoCycle : Prop :=
  ∀ (s : State) (x : Reg), s.fault = none → s.cyclesLeft = 0 → s.wait = some x → s.takeOp.1 = .tick →
    ∃ t, step s = .next t ∧ t.dt.toNat = s.dt.toNat - 1 ∧ t.st.toNat = s.st.toNat - 1 ∧
      t.script = s.script.tail ∧ SameExcept [.dt, .st, .script] s t

/-- The core starts to wait only in a cycle that runs `LD Vx, K`, and stops waiting only by a press, which has written
the key to the register that waited (R91, R82, R106). That a key already held ends no wait is the spec's decision D16
(DESIGN CHOICE, log 18). -/
def Obligations.WaitingStartsWithGetKeyAndEndsWithPress : Prop :=
  ∀ (s t : State) (x : Reg), s.Inv → step s = .next t →
    (s.wait = none → t.wait = some x →
      decode (s.readByte s.pc.toNat) (s.readByte (s.pc.toNat + 1)) = .ok (.ldVxK x)) ∧
    (s.wait = some x → t.wait = none → ∃ k : Key, s.takeOp.1 = .press k ∧ (t.readV x).toNat = k.val) ∧
    (s.wait = some x → t.wait ≠ none → t.wait = some x)

/-- After a cycle the beep edge makes `beeping` say whether `ST` is non-zero, with one `StartBeep` or `StopBeep`
exactly when that changes it (R102). That the edge is checked after a cycle and at no other time is the spec's
decision D18 (DESIGN CHOICE, log 20). -/
def Obligations.BeepFollowsTheSoundTimer : Prop :=
  ∀ s : State,
    s.beepEdge.beeping = decide (s.st ≠ 0) ∧
    s.beepEdge.events = s.events ++ (if s.st ≠ 0 ∧ s.beeping = false then [Event.startBeep]
      else if s.st = 0 ∧ s.beeping = true then [Event.stopBeep] else []) ∧
    SameExcept [.beeping, .events] s s.beepEdge

/-- A tick of R90 is a run of at least one and at most IPT steps (one step where no cycle runs): running the machine
one cycle at a time reaches exactly the state the whole tick reaches (R90, R92). That a step is one cycle is the
model's choice (DESIGN CHOICE, log 1). -/
def Obligations.TickIsARunOfSteps : Prop :=
  ∀ (s : State) (rest : List HostOp), s.fault = none → s.cyclesLeft = 0 → s.script = .tick :: rest →
    ∃ k, 1 ≤ k ∧ k ≤ max 1 s.ipt ∧ Host.Core.run Sys2Proof.core k s = hostOp .tick { s with script := rest }

/-- A host script of R94 is a run of steps: there is a number of steps after which the machine, its script aside, is
where the script's operations, each run to completion in order up to the first fault, leave it (R94). What ends a run
is the spec's decision D28; the field `script` is the model's own (DESIGN CHOICE, log 2). -/
def Obligations.HostScriptIsARunOfSteps : Prop :=
  ∀ s : State, s.fault = none → s.cyclesLeft = 0 →
    ∃ k t, Host.Core.run Sys2Proof.core k s = .next t ∧
      runScript s.script { s with script := [] } = .next { t with script := [] }

/-! ### Construction and reset (70_reset_and_hazards.md) -/

/-- `Construct` rejects a ROM of more than 3584 bytes, whatever the clock rate, and otherwise, at a rate it accepts,
puts the font at `0x50`, the ROM at `0x200` and zero elsewhere (R30, R112). The length is checked before the rate (log
21, the order of R112's pseudocode); an empty ROM and one of 3584 bytes are accepted by the spec's decision D26
(DESIGN CHOICE, log 25), a rate below 60 is refused by D19 (log 21); the canonical form of memory is the model's own
(log 7). The stack limit is any, a limit of 0 too, which R6 does not allow and the model accepts (DESIGN CHOICE, log
33). -/
def Obligations.ConstructLoadsFontAndRom : Prop :=
  ∀ (font : Vector Byte 80) (limit : Option Nat) (rom : List Byte) (hz : Nat),
    (3584 < rom.length → construct font limit rom hz = .error (.romTooLarge rom.length)) ∧
    (rom.length ≤ 3584 → 60 ≤ hz → ∃ s, construct font limit rom hz = .ok s ∧ s.mem.wf = true ∧
      ∀ a, a < 4096 → s.readByte a =
        if 0x50 ≤ a ∧ a < 0x50 + 80 then font.toList.getD (a - 0x50) 0
        else if 0x200 ≤ a ∧ a < 0x200 + rom.length then rom.getD (a - 0x200) 0 else 0)

/-- `Construct` refuses a clock rate below 60 and otherwise makes a machine with the reset values of R113 (the values
other than `pc`, the framebuffer and memory are the spec's decision D7, the refused rate D19; log 5, log 21). D7 and
D19 are the spec's decisions (DESIGN CHOICE); that a stack limit of 0, which R6 does not allow, makes a machine is the
model's own (DESIGN CHOICE, log 33). -/
def Obligations.ConstructedMachineIsAtReset : Prop :=
  ∀ (font : Vector Byte 80) (limit : Option Nat) (rom : List Byte) (hz : Nat), rom.length ≤ 3584 →
    (hz < 60 → construct font limit rom hz = .error (.clockRefused hz)) ∧
    (60 ≤ hz → ∃ s, construct font limit rom hz = .ok s ∧ s.pc = 0x200 ∧ (∀ x, s.readV x = 0) ∧ s.index = 0 ∧
      s.stack = [] ∧ s.dt = 0 ∧ s.st = 0 ∧ (∀ px py, s.fb.get px py = false) ∧ s.key = none ∧ s.wait = none ∧
      s.beeping = false ∧ s.fault = none ∧ s.events = [] ∧ s.params.clockHz = hz ∧ s.params.stackLimit = limit)

/-- At reset the program counter is `0x200`, every cell is off, and memory below the font and from `0xA0` on is zero
(R15, R19, R28). That nothing has been emitted is one of the values the spec's decision D7 gives (DESIGN CHOICE,
log 5), and that memory lists no cell is the model's own representation (log 7). -/
def Obligations.ResetState : Prop :=
  State.reset.pc = 0x200 ∧ (∀ px py, State.reset.fb.get px py = false) ∧ State.reset.events = [] ∧
    (∀ a, a < 0x50 ∨ 0xA0 ≤ a → State.reset.readByte a = 0) ∧ State.reset.mem = []

/-! ### Whole-machine rules -/

/-- What each instruction may write besides `V` and `pc`, over all 32: no other instruction writes that part (R16,
R17, R18, R19, R20, R21, R22, R25, R27). The part `draws` is the model's own (DESIGN CHOICE, log 4). -/
def Obligations.EachPartHasItsWriters : Prop :=
  ∀ (i : Instr) (s t : State), exec i s = .next t →
    SameExcept [.regs, .pc, .index, .stack, .dt, .st, .display, .events, .wait, .fault, .memory, .draws] s t ∧
    (t.index ≠ s.index → (∃ nnn, i = .ldI nnn) ∨ (∃ x, i = .addI x) ∨ ∃ x, i = .ldF x) ∧
    (t.stack ≠ s.stack → (∃ nnn, i = .call nnn) ∨ i = .ret) ∧
    (t.dt ≠ s.dt → ∃ x, i = .ldDtVx x) ∧ (t.st ≠ s.st → ∃ x, i = .ldStVx x) ∧
    (t.wait ≠ s.wait → ∃ x, i = .ldVxK x) ∧ (t.draws ≠ s.draws → ∃ x nn, i = .rnd x nn) ∧
    (t.fb ≠ s.fb ∨ t.events ≠ s.events → i = .cls ∨ ∃ x y n, i = .drw x y n) ∧
    ((∃ a, t.readByte a ≠ s.readByte a) → (∃ x, i = .ldB x) ∨ ∃ x, i = .ldMemVx x) ∧
    (t.fault ≠ s.fault → i = .ret ∨ (∃ nnn, i = .call nnn) ∨ (∃ x y n, i = .drw x y n) ∨ (∃ x, i = .ldB x) ∨
      (∃ x, i = .ldMemVx x) ∨ ∃ x, i = .ldVxMem x)

/-- `VF` changes only by an instruction that R14 lists as a writer of the flag, or that names `VF` as its destination,
or that loads the block `V0` to `VF` (R14). -/
def Obligations.OnlyFlagWritersAndDestinationsChangeVF : Prop :=
  ∀ (i : Instr) (s t : State), exec i s = .next t → t.readV VF ≠ s.readV VF →
    (∃ x y, i = .addReg x y ∨ i = .sub x y ∨ i = .subn x y ∨ i = .shr x y ∨ i = .shl x y) ∨
    (∃ x y n, i = .drw x y n) ∨ (∃ x, i = .addI x) ∨
    (∃ nn, i = .ldImm VF nn ∨ i = .addImm VF nn ∨ i = .rnd VF nn) ∨
    (∃ y, i = .ldReg VF y ∨ i = .and VF y ∨ i = .xor VF y) ∨ i = .ldVxDt VF ∨ i = .ldVxMem VF

/-- R88's table, over all 32 instructions: a jump or call leaves `pc` at its target, a return two past the address it
pops (the spec's conflict C3, log 26), a skip four further exactly when its condition holds and else two, every other
instruction two further, and an instruction that faults leaves `pc` as it was. What the key skips compare is the
spec's decision D25 (DESIGN CHOICE, log 24). -/
def Obligations.PcAdvancesByTheTable : Prop :=
  ∀ (i : Instr) (s t : State), exec i s = .next t →
    (t.fault = none →
      (∀ nnn, i = .jp nnn ∨ i = .call nnn → t.pc.toNat = nnn.toNat) ∧
      (i = .ret → ∃ a, s.stack.getLast? = some a ∧ t.pc = a + 2) ∧
      (i ≠ .ret → (∀ nnn, i ≠ .jp nnn ∧ i ≠ .call nnn) → t.pc = s.pc + (if skipTaken i s then 4 else 2))) ∧
    (s.fault = none → t.fault ≠ none → t.pc = s.pc)

/-- The invariants of this section hold at reset. They rest on reset values that the spec's decision D7 gives, not its
source: the empty stack, no wait, no fault, no beep, no event (DESIGN CHOICE, log 5), and on the model's own field
`cyclesLeft` (DESIGN CHOICE, log 1) and its form of memory (log 7). -/
def Obligations.InvariantsHoldAtReset : Prop :=
  State.reset.Inv ∧ State.reset.displayMirrored ∧ State.reset.audioAlternates

/-- Every step keeps the invariant: memory in canonical form, `pc` at most `0x1002` and return addresses at most
`0xFFE`, the stack within its limit, and no tick in progress during a wait or after a fault (R15, R17, R27, R88, R90).
What it says of a tick in progress rests on the model's own field `cyclesLeft` (DESIGN CHOICE, log 1), what it says of
memory on the model's form of it (log 7), and the return addresses on conflict C3 (log 26). -/
def Obligations.StepKeepsTheInvariant : Prop :=
  ∀ s t : State, s.Inv → step s = .next t → t.Inv

/-- Every step keeps the framebuffer equal to the emitted events applied in order to an all-off grid, each event of
the Graphics capability flipping one cell of the grid, `DrawPixel` from off to on and `ClearPixel` from on to off; and
a step changes a cell or emits a Graphics event only where it runs `CLS` or `DRW` (R104). -/
def Obligations.DisplayMirrorsTheEvents : Prop :=
  ∀ s t : State, step s = .next t →
    (s.displayMirrored → t.displayMirrored) ∧
    (t.fb ≠ s.fb ∨ t.events.filter Event.isGraphics ≠ s.events.filter Event.isGraphics →
      ∃ i, decode (s.readByte s.pc.toNat) (s.readByte (s.pc.toNat + 1)) = .ok i ∧
        (i = .cls ∨ ∃ x y n, i = .drw x y n))

/-- Every step keeps the audio events alternating, starting with `StartBeep`, with `beeping` what they left; and a step
emits an Audio event only with the beep edge of R102: one event, the one that makes `beeping` say whether `ST` is
non-zero (R105). -/
def Obligations.AudioEventsAlternate : Prop :=
  ∀ s t : State, step s = .next t →
    (s.audioAlternates → t.audioAlternates) ∧
    ((t.events.filter Event.isAudio = s.events.filter Event.isAudio ∧ t.beeping = s.beeping) ∨
      (t.events.filter Event.isAudio = s.events.filter Event.isAudio ++
          [if t.st ≠ 0 then Event.startBeep else Event.stopBeep] ∧
        t.beeping = decide (t.st ≠ 0) ∧ t.beeping ≠ s.beeping))

/-- In a state that meets the invariant no program counter arithmetic wraps: where an instruction does not fault, the new
`pc` is the number the rules compute on unbounded integers, at most `0x1002`: the target of a jump or call, the popped
address and two for a return (the spec's conflict C3, log 26), and for every other instruction `pc` and four where it
is a skip whose condition holds (the key skips as decision D25 says, log 24), else `pc` and two (R15, R88). -/
def Obligations.PcNeverWraps : Prop :=
  ∀ (s t : State) (i : Instr), s.Inv → s.pc.toNat + 2 ≤ 4096 → exec i s = .next t → t.fault = none →
    t.pc.toNat ≤ 0x1002 ∧
    (∀ nnn, i = .jp nnn ∨ i = .call nnn → t.pc.toNat = nnn.toNat) ∧
    (i = .ret → ∃ a, s.stack.getLast? = some a ∧ t.pc.toNat = a.toNat + 2) ∧
    (i ≠ .ret → (∀ nnn, i ≠ .jp nnn ∧ i ≠ .call nnn) →
      t.pc.toNat = s.pc.toNat + (if skipTaken i s then 4 else 2))
end

