-- ==== Sys2Proof/Laws/Decode.lean ====
section
/-! SUPPORT. The fields of the words the encoder builds, format by format (R42, R44), the two bytes of a word, and what
the masks of the decode table keep of a word. -/

namespace Sys2Proof

/-- A word is its high byte followed by its low byte (R32). -/
@[simp] theorem highByte_append_lowByte (op : Word) : highByte op ++ lowByte op = op :=
  BitVec.extractLsb'_append_extractLsb' (w := 8) (len := 8) (x := op)

/-- A word is its four hexadecimal digits. -/
theorem word_digits (op : Word) :
    op = wordXYN (fieldI op) (fieldX op) (fieldY op) (fieldN op) := by
  apply BitVec.eq_of_getLsbD_eq
  intro k hk
  simp only [wordXYN, fieldI, fieldX, fieldY, fieldN, BitVec.ofFin_toFin, BitVec.getLsbD_append,
    BitVec.getLsbD_extractLsb']
  grind

/-- A word is its first digit, its second and its low byte. -/
theorem word_eq_wordXNN (op : Word) : op = wordXNN (fieldI op) (fieldX op) (fieldNN op) := by
  apply BitVec.eq_of_getLsbD_eq
  intro k hk
  simp only [wordXNN, fieldI, fieldX, fieldNN, BitVec.ofFin_toFin, BitVec.getLsbD_append,
    BitVec.getLsbD_extractLsb']
  grind

/-- A word is its first digit and the 12 bits below it. -/
theorem word_eq_wordNNN (op : Word) : op = wordNNN (fieldI op) (fieldNNN op) := by
  apply BitVec.eq_of_getLsbD_eq
  intro k hk
  simp only [wordNNN, fieldI, fieldNNN, BitVec.getLsbD_append, BitVec.getLsbD_extractLsb']
  grind

/-! ### Format `NNN` -/

@[simp] theorem fieldI_wordNNN (i : BitVec 4) (nnn : Addr) : fieldI (wordNNN i nnn) = i :=
  BitVec.extractLsb'_append_eq_left

@[simp] theorem fieldNNN_wordNNN (i : BitVec 4) (nnn : Addr) : fieldNNN (wordNNN i nnn) = nnn :=
  BitVec.extractLsb'_append_eq_right

/-! ### Formats `XNN` and `XSS` -/

@[simp] theorem fieldI_wordXNN (i : BitVec 4) (x : Reg) (nn : Byte) : fieldI (wordXNN i x nn) = i := by
  show BitVec.extractLsb' 12 4 ((i ++ (BitVec.ofFin x : BitVec 4)) ++ nn) = i
  rw [BitVec.extractLsb'_append_eq_of_le (by omega), BitVec.extractLsb'_append_eq_of_le (by omega)]
  simp

@[simp] theorem fieldX_wordXNN (i : BitVec 4) (x : Reg) (nn : Byte) : fieldX (wordXNN i x nn) = x := by
  show (BitVec.extractLsb' 8 4 ((i ++ (BitVec.ofFin x : BitVec 4)) ++ nn)).toFin = x
  rw [BitVec.extractLsb'_append_eq_of_le (by omega), BitVec.extractLsb'_append_eq_of_add_le (by omega)]
  simp

@[simp] theorem fieldNN_wordXNN (i : BitVec 4) (x : Reg) (nn : Byte) : fieldNN (wordXNN i x nn) = nn :=
  BitVec.extractLsb'_append_eq_right

/-! ### Formats `XYS` and `XYN` -/

@[simp] theorem fieldI_wordXYN (i : BitVec 4) (x y : Reg) (n : BitVec 4) : fieldI (wordXYN i x y n) = i := by
  show BitVec.extractLsb' 12 4 (((i ++ (BitVec.ofFin x : BitVec 4)) ++ (BitVec.ofFin y : BitVec 4)) ++ n) = i
  rw [BitVec.extractLsb'_append_eq_of_le (by omega), BitVec.extractLsb'_append_eq_of_le (by omega),
    BitVec.extractLsb'_append_eq_of_le (by omega)]
  simp

@[simp] theorem fieldX_wordXYN (i : BitVec 4) (x y : Reg) (n : BitVec 4) : fieldX (wordXYN i x y n) = x := by
  show (BitVec.extractLsb' 8 4 (((i ++ (BitVec.ofFin x : BitVec 4)) ++ (BitVec.ofFin y : BitVec 4)) ++ n)).toFin = x
  rw [BitVec.extractLsb'_append_eq_of_le (by omega), BitVec.extractLsb'_append_eq_of_le (by omega),
    BitVec.extractLsb'_append_eq_of_add_le (by omega)]
  simp

@[simp] theorem fieldY_wordXYN (i : BitVec 4) (x y : Reg) (n : BitVec 4) : fieldY (wordXYN i x y n) = y := by
  show (BitVec.extractLsb' 4 4 (((i ++ (BitVec.ofFin x : BitVec 4)) ++ (BitVec.ofFin y : BitVec 4)) ++ n)).toFin = y
  rw [BitVec.extractLsb'_append_eq_of_le (by omega), BitVec.extractLsb'_append_eq_of_add_le (by omega)]
  simp

@[simp] theorem fieldN_wordXYN (i : BitVec 4) (x y : Reg) (n : BitVec 4) : fieldN (wordXYN i x y n) = n :=
  BitVec.extractLsb'_append_eq_right

/-! ### What the masks keep -/

/-- `op & 0xF000` keeps the family digit. -/
theorem mask_family (op : Word) : op &&& 0xF000#16 = fieldI op ++ 0x000#12 := by
  apply BitVec.eq_of_getLsbD_eq
  intro k hk
  simp only [fieldI, BitVec.getLsbD_and, BitVec.getLsbD_append, BitVec.getLsbD_extractLsb']
  interval_cases k <;> simp

/-- `op & 0xF00F` keeps the family digit and the last digit. -/
theorem mask_family_digit (op : Word) : op &&& 0xF00F#16 = fieldI op ++ 0x00#8 ++ fieldN op := by
  apply BitVec.eq_of_getLsbD_eq
  intro k hk
  simp only [fieldI, fieldN, BitVec.getLsbD_and, BitVec.getLsbD_append, BitVec.getLsbD_extractLsb']
  interval_cases k <;> simp

/-- `op & 0xF0FF` keeps the family digit and the low byte. -/
theorem mask_family_byte (op : Word) : op &&& 0xF0FF#16 = fieldI op ++ 0x0#4 ++ fieldNN op := by
  apply BitVec.eq_of_getLsbD_eq
  intro k hk
  simp only [fieldI, fieldNN, BitVec.getLsbD_and, BitVec.getLsbD_append, BitVec.getLsbD_extractLsb']
  interval_cases k <;> simp

/-- A word of format `NNN` selects the row of its digit. -/
theorem matchesRow_wordNNN (i : BitVec 4) (nnn : Addr) : matchesRow (wordNNN i nnn) (i ++ 0x000#12, 0xF000) = true := by
  simp [matchesRow, mask_family]

/-- A word of format `XNN` selects the row of its digit. -/
theorem matchesRow_wordXNN (i : BitVec 4) (x : Reg) (nn : Byte) :
    matchesRow (wordXNN i x nn) (i ++ 0x000#12, 0xF000) = true := by
  simp [matchesRow, mask_family]

/-- A word of format `XSS` selects the row of its digit and its low byte. -/
theorem matchesRow_wordXSS (i : BitVec 4) (x : Reg) (nn : Byte) :
    matchesRow (wordXNN i x nn) (i ++ 0x0#4 ++ nn, 0xF0FF) = true := by
  simp [matchesRow, mask_family_byte]

/-- A word of format `XYS` selects the row of its first and last digits. -/
theorem matchesRow_wordXYS (i : BitVec 4) (x y : Reg) (n : BitVec 4) :
    matchesRow (wordXYN i x y n) (i ++ 0x00#8 ++ n, 0xF00F) = true := by
  simp [matchesRow, mask_family_digit]

/-- A word of format `XYN` selects the row of its digit. -/
theorem matchesRow_wordXYN (i : BitVec 4) (x y : Reg) (n : BitVec 4) :
    matchesRow (wordXYN i x y n) (i ++ 0x000#12, 0xF000) = true := by
  simp [matchesRow, mask_family]

/-- A row with mask `F000` is selected by the family digit alone. -/
theorem matchesRow_family (op : Word) (a : BitVec 4) :
    matchesRow op (a ++ 0x000#12, 0xF000#16) = (fieldI op == a) := by
  rw [Bool.eq_iff_iff]
  simp only [matchesRow, mask_family, beq_iff_eq]
  constructor
  · intro h
    have := congrArg (BitVec.extractLsb' 12 4) h
    rwa [BitVec.extractLsb'_append_eq_left, BitVec.extractLsb'_append_eq_left] at this
  · rintro rfl; rfl

/-- A row with mask `F00F` is selected by the family digit and the last digit. -/
theorem matchesRow_digit (op : Word) (a n : BitVec 4) :
    matchesRow op (a ++ 0x00#8 ++ n, 0xF00F#16) = (fieldI op == a && fieldN op == n) := by
  rw [Bool.eq_iff_iff]
  simp only [matchesRow, mask_family_digit, beq_iff_eq, Bool.and_eq_true]
  constructor
  · intro h
    have h1 := congrArg (BitVec.extractLsb' 4 12) h
    have h2 := congrArg (BitVec.extractLsb' 0 4) h
    rw [BitVec.extractLsb'_append_eq_left, BitVec.extractLsb'_append_eq_left] at h1
    rw [BitVec.extractLsb'_append_eq_right, BitVec.extractLsb'_append_eq_right] at h2
    have h3 := congrArg (BitVec.extractLsb' 8 4) h1
    rw [BitVec.extractLsb'_append_eq_left, BitVec.extractLsb'_append_eq_left] at h3
    exact ⟨h3, h2⟩
  · rintro ⟨rfl, rfl⟩; rfl

/-- A row with mask `F0FF` is selected by the family digit and the low byte. -/
theorem matchesRow_byte (op : Word) (a : BitVec 4) (n : Byte) :
    matchesRow op (a ++ 0x0#4 ++ n, 0xF0FF#16) = (fieldI op == a && fieldNN op == n) := by
  rw [Bool.eq_iff_iff]
  simp only [matchesRow, mask_family_byte, beq_iff_eq, Bool.and_eq_true]
  constructor
  · intro h
    have h1 := congrArg (BitVec.extractLsb' 8 8) h
    have h2 := congrArg (BitVec.extractLsb' 0 8) h
    rw [BitVec.extractLsb'_append_eq_left, BitVec.extractLsb'_append_eq_left] at h1
    rw [BitVec.extractLsb'_append_eq_right, BitVec.extractLsb'_append_eq_right] at h2
    have h3 := congrArg (BitVec.extractLsb' 4 4) h1
    rw [BitVec.extractLsb'_append_eq_left, BitVec.extractLsb'_append_eq_left] at h3
    exact ⟨h3, h2⟩
  · rintro ⟨rfl, rfl⟩; rfl

/-- A row with mask `FFFF` is selected by one word. -/
theorem matchesRow_word (op w : Word) : matchesRow op (w, 0xFFFF#16) = (op == w) := by
  have h : op &&& 0xFFFF#16 = op := by
    apply BitVec.eq_of_getLsbD_eq; intro k hk; interval_cases k <;> simp
  simp [matchesRow, h]

/-- A digit is one of sixteen. -/
theorem digit_cases (i : BitVec 4) : i = 0 ∨ i = 1 ∨ i = 2 ∨ i = 3 ∨ i = 4 ∨ i = 5 ∨ i = 6 ∨ i = 7 ∨ i = 8 ∨ i = 9 ∨
    i = 10 ∨ i = 11 ∨ i = 12 ∨ i = 13 ∨ i = 14 ∨ i = 15 := by
  revert i; decide

end Sys2Proof
end

