-- ==== Sys2Proof/Laws/Display.lean ====
section
/-! SUPPORT. The framebuffer, and what flipping a list of cells does: which cells change, which events are emitted, and
when there is a collision. -/

namespace Sys2Proof.Machine

/-- A cell of the grid is the entry of the framebuffer; there is no cell outside. -/
theorem Framebuffer.get_eq (fb : Framebuffer) (x y : Nat) :
    fb.get x y = if h : x < 64 ∧ y < 32 then (fb[x]'h.1)[y]'h.2 else false := by
  unfold Framebuffer.get
  by_cases hx : x < 64
  · by_cases hy : y < 32 <;> simp [hx, hy]
  · simp [hx]

/-- Setting a cell of the grid sets it and leaves every other cell alone. -/
theorem Framebuffer.get_set (fb : Framebuffer) (x y x' y' : Nat) (b : Bool) :
    (fb.set x y b).get x' y' = if x = x' ∧ y = y' ∧ x < 64 ∧ y < 32 then b else fb.get x' y' := by
  simp only [Framebuffer.get_eq]
  unfold Framebuffer.set
  grind

@[simp] theorem Framebuffer.get_allOff (x y : Nat) : Framebuffer.allOff.get x y = false := by
  simp [Framebuffer.get_eq, Framebuffer.allOff]

/-- Two framebuffers with the same cells are equal. -/
theorem Framebuffer.ext_get {fb fb' : Framebuffer} (h : ∀ x y, x < 64 → y < 32 → fb.get x y = fb'.get x y) :
    fb = fb' := by
  apply Vector.ext
  intro x hx
  apply Vector.ext
  intro y hy
  simpa [Framebuffer.get_eq, hx, hy] using h x y hx hy

/-- The cells of a list all lie in the grid. -/
def InGrid (cells : List (Nat × Nat)) : Prop := ∀ c ∈ cells, c.1 < 64 ∧ c.2 < 32

theorem foldl_flip_fb (cells : List (Nat × Nat)) (d : Drawing) (hg : InGrid cells) (hn : cells.Nodup) (x y : Nat) :
    (cells.foldl Drawing.flip d).fb.get x y = (d.fb.get x y ^^ decide ((x, y) ∈ cells)) := by
  induction cells generalizing d with
  | nil => simp
  | cons c rest ih =>
    obtain ⟨cx, cy⟩ := c
    have hc := hg (cx, cy) (by simp)
    rw [List.nodup_cons] at hn
    rw [List.foldl_cons, ih _ (fun c h => hg c (by simp [h])) hn.2]
    simp only [Drawing.flip, Framebuffer.get_set, hc, and_true, List.mem_cons, Prod.mk.injEq]
    by_cases h : cx = x ∧ cy = y
    · obtain ⟨rfl, rfl⟩ := h; simp [hn.1]
    · have h' : ¬(x = cx ∧ y = cy) := fun e => h ⟨e.1.symm, e.2.symm⟩
      simp [h, h']

theorem foldl_flip_events (cells : List (Nat × Nat)) (d : Drawing) (hg : InGrid cells) (hn : cells.Nodup) :
    (cells.foldl Drawing.flip d).events = d.events ++ cells.map (flipEvent d.fb) := by
  induction cells generalizing d with
  | nil => simp
  | cons c rest ih =>
    obtain ⟨cx, cy⟩ := c
    rw [List.nodup_cons] at hn
    rw [List.foldl_cons, ih _ (fun c h => hg c (by simp [h])) hn.2]
    simp only [Drawing.flip, List.map_cons, List.append_assoc, List.singleton_append, List.append_cancel_left_eq,
      List.cons.injEq, true_and]
    apply List.map_congr_left
    intro e he
    have hne : ¬(cx = e.1 ∧ cy = e.2 ∧ cx < 64 ∧ cy < 32) := fun h => hn.1 (by
      obtain ⟨ex, ey⟩ := e; obtain ⟨h1, h2, -⟩ := h; simp only at h1 h2; rwa [h1, h2])
    simp only [flipEvent, Framebuffer.get_set, if_neg hne]

theorem foldl_flip_collision (cells : List (Nat × Nat)) (d : Drawing) (hg : InGrid cells) (hn : cells.Nodup) :
    (cells.foldl Drawing.flip d).collision = (d.collision || cells.any fun c => d.fb.get c.1 c.2) := by
  induction cells generalizing d with
  | nil => simp
  | cons c rest ih =>
    obtain ⟨cx, cy⟩ := c
    rw [List.nodup_cons] at hn
    rw [List.foldl_cons, ih _ (fun c h => hg c (by simp [h])) hn.2]
    simp only [Drawing.flip, List.any_cons, Bool.or_assoc]
    congr 2
    rw [Bool.eq_iff_iff, List.any_eq_true, List.any_eq_true]
    refine exists_congr fun e => and_congr_right fun he => ?_
    have hne : ¬(cx = e.1 ∧ cy = e.2 ∧ cx < 64 ∧ cy < 32) := fun h => hn.1 (by
      obtain ⟨ex, ey⟩ := e; obtain ⟨h1, h2, -⟩ := h; simp only at h1 h2; rwa [h1, h2])
    rw [Framebuffer.get_set, if_neg hne]

/-- Flipping distinct cells of the grid inverts those cells and no other. -/
theorem flipCells_get (fb : Framebuffer) {cells : List (Nat × Nat)} (hg : InGrid cells) (hn : cells.Nodup)
    (x y : Nat) : (flipCells fb cells).fb.get x y = (fb.get x y ^^ decide ((x, y) ∈ cells)) :=
  foldl_flip_fb cells _ hg hn x y

/-- It emits one event for each, in order, decided by the framebuffer before the drawing. -/
theorem flipCells_events (fb : Framebuffer) {cells : List (Nat × Nat)} (hg : InGrid cells) (hn : cells.Nodup) :
    (flipCells fb cells).events = cells.map (flipEvent fb) := by
  simpa [flipCells] using foldl_flip_events cells { fb := fb, events := [], collision := false } hg hn

/-- It collides when one of them was on. -/
theorem flipCells_collision (fb : Framebuffer) {cells : List (Nat × Nat)} (hg : InGrid cells) (hn : cells.Nodup) :
    (flipCells fb cells).collision = cells.any fun c => fb.get c.1 c.2 := by
  simpa [flipCells] using foldl_flip_collision cells { fb := fb, events := [], collision := false } hg hn

/-! ### The event sequence -/

theorem displayAfter_append (es es' : List Event) (fb : Framebuffer) :
    displayAfter (es ++ es') fb = (displayAfter es fb).bind (displayAfter es') := by
  induction es generalizing fb with
  | nil => simp [displayAfter]
  | cons e rest ih =>
    simp only [List.cons_append, displayAfter]
    cases displayEvent fb e with
    | none => rfl
    | some fb' => exact ih fb'

theorem audioAfter_append (es es' : List Event) (b : Bool) :
    audioAfter (es ++ es') b = (audioAfter es b).bind (audioAfter es') := by
  induction es generalizing b with
  | nil => simp [audioAfter]
  | cons e rest ih =>
    simp only [List.cons_append, audioAfter]
    cases audioEvent b e with
    | none => rfl
    | some b' => exact ih b'

/-- The event of a flip does on the display what the flip does. -/
theorem displayEvent_flipEvent (fb : Framebuffer) (c : Nat × Nat) (h : c.1 < 64 ∧ c.2 < 32) :
    displayEvent fb (flipEvent fb c) = some (fb.set c.1 c.2 (!fb.get c.1 c.2)) := by
  unfold flipEvent
  cases hb : fb.get c.1 c.2 <;> simp [displayEvent, h, hb]

theorem foldl_flip_display (cells : List (Nat × Nat)) (d : Drawing) (fb0 : Framebuffer) (hg : InGrid cells)
    (h : displayAfter d.events fb0 = some d.fb) :
    displayAfter (cells.foldl Drawing.flip d).events fb0 = some (cells.foldl Drawing.flip d).fb := by
  induction cells generalizing d with
  | nil => exact h
  | cons c rest ih =>
    apply ih _ (fun c h => hg c (by simp [h]))
    simp [Drawing.flip, displayAfter_append, h, displayAfter, displayEvent_flipEvent _ _ (hg c (by simp))]

/-- The events of a drawing, applied to the framebuffer it began with, give the one it ends with. -/
theorem flipCells_display (fb : Framebuffer) {cells : List (Nat × Nat)} (hg : InGrid cells) :
    displayAfter (flipCells fb cells).events fb = some (flipCells fb cells).fb :=
  foldl_flip_display cells _ fb hg rfl

/-- No event of a drawing is an Audio call. -/
theorem audioAfter_map_flipEvent (fb : Framebuffer) (cells : List (Nat × Nat)) (b : Bool) :
    audioAfter (cells.map (flipEvent fb)) b = some b := by
  induction cells with
  | nil => rfl
  | cons c rest ih =>
    have h : audioEvent b (flipEvent fb c) = some b := by unfold flipEvent; split <;> rfl
    simp [audioAfter, h, ih]

/-! ### The cells of the grid and of a sprite -/

theorem mem_gridCells (x y : Nat) : (x, y) ∈ gridCells ↔ x < 64 ∧ y < 32 := by
  simp [gridCells]; omega

theorem gridCells_nodup : gridCells.Nodup := by
  unfold gridCells
  rw [List.nodup_flatMap]
  refine ⟨fun y _ => (List.nodup_range).map fun a b h => by simpa using h, ?_⟩
  refine List.Pairwise.imp ?_ (List.nodup_range (n := 32))
  intro a b hab
  simp only [Function.onFun, List.disjoint_left, List.mem_map, List.mem_range]
  rintro _ ⟨x, -, rfl⟩ ⟨x', -, h⟩
  exact hab (by simpa using (congrArg Prod.snd h).symm)

theorem filter_gridCells_inGrid (p : Nat × Nat → Bool) : InGrid (gridCells.filter p) := by
  intro c hc
  obtain ⟨x, y⟩ := c
  exact (mem_gridCells x y).1 (List.mem_of_mem_filter hc)

theorem mem_spriteRowCells (ox py : Nat) (bits : Byte) (x y : Nat) :
    (x, y) ∈ spriteRowCells ox py bits ↔
      y = py ∧ ox ≤ x ∧ x < ox + 8 ∧ x < 64 ∧ bits.getLsbD (7 - (x - ox)) = true := by
  simp only [spriteRowCells, List.mem_map, List.mem_filter, List.mem_range, Bool.and_eq_true, decide_eq_true_eq,
    Prod.mk.injEq]
  constructor
  · rintro ⟨c, ⟨hc, hx, hb⟩, rfl, rfl⟩
    have : ox + c - ox = c := by omega
    exact ⟨rfl, by omega, by omega, hx, by rwa [this]⟩
  · rintro ⟨rfl, h1, h2, h3, h4⟩
    exact ⟨x - ox, ⟨by omega, by omega, h4⟩, by omega, rfl⟩

/-- The cells of a sprite are those its rows' 1 bits name, inside the grid. -/
theorem mem_spriteCells (ox oy : Nat) (rows : List Byte) (x y : Nat) :
    (x, y) ∈ spriteCells ox oy rows ↔
      oy ≤ y ∧ y < oy + rows.length ∧ y < 32 ∧ ox ≤ x ∧ x < ox + 8 ∧ x < 64 ∧
        (rows.getD (y - oy) 0).getLsbD (7 - (x - ox)) = true := by
  induction rows generalizing oy with
  | nil =>
    simp only [spriteCells, List.not_mem_nil, List.length_nil, false_iff]; omega
  | cons bits rest ih =>
    simp only [spriteCells]
    split
    · rw [List.mem_append, mem_spriteRowCells, ih]
      by_cases hy : y = oy
      · subst hy
        rw [Nat.sub_self, List.getD_cons_zero, List.length_cons]
        constructor
        · rintro (h | h)
          · exact ⟨by omega, by omega, by omega, h.2.1, h.2.2.1, h.2.2.2.1, h.2.2.2.2⟩
          · omega
        · rintro h
          exact .inl ⟨rfl, h.2.2.2.1, h.2.2.2.2.1, h.2.2.2.2.2.1, h.2.2.2.2.2.2⟩
      · by_cases hlt : oy < y
        · have h1 : y - oy = (y - (oy + 1)) + 1 := by omega
          rw [h1, List.getD_cons_succ, List.length_cons]
          constructor
          · rintro (h | h)
            · exact absurd h.1 hy
            · exact ⟨by omega, by omega, h.2.2.1, h.2.2.2.1, h.2.2.2.2.1, h.2.2.2.2.2.1, h.2.2.2.2.2.2⟩
          · rintro h
            exact .inr ⟨by omega, by omega, h.2.2.1, h.2.2.2.1, h.2.2.2.2.1, h.2.2.2.2.2.1, h.2.2.2.2.2.2⟩
        · constructor
          · rintro (h | h) <;> omega
          · intro h; omega
    · simp only [List.not_mem_nil, false_iff]; omega

theorem spriteCells_inGrid (ox oy : Nat) (rows : List Byte) : InGrid (spriteCells ox oy rows) := by
  rintro ⟨x, y⟩ h
  rw [mem_spriteCells] at h
  exact ⟨h.2.2.2.2.2.1, h.2.2.1⟩

theorem spriteRowCells_nodup (ox py : Nat) (bits : Byte) : (spriteRowCells ox py bits).Nodup :=
  (List.nodup_range.filter _).map fun a b h => by simpa using congrArg Prod.fst h

theorem spriteCells_nodup (ox oy : Nat) (rows : List Byte) : (spriteCells ox oy rows).Nodup := by
  induction rows generalizing oy with
  | nil => simp [spriteCells]
  | cons bits rest ih =>
    simp only [spriteCells]
    split
    · refine List.nodup_append.2 ⟨spriteRowCells_nodup .., ih _, ?_⟩
      rintro ⟨x, y⟩ h ⟨x', y'⟩ h' he
      rw [mem_spriteRowCells] at h
      rw [mem_spriteCells] at h'
      simp only [Prod.mk.injEq] at he
      omega
    · simp

theorem litCells_inGrid (fb : Framebuffer) : InGrid (litCells fb) := filter_gridCells_inGrid _

theorem litCells_nodup (fb : Framebuffer) : (litCells fb).Nodup := gridCells_nodup.filter _

/-! ### The order of the events: row by row, left to right -/

/-- `a` comes before `b`: a higher row, or further left in the same row. -/
def CellBefore (a b : Nat × Nat) : Prop := a.2 < b.2 ∨ (a.2 = b.2 ∧ a.1 < b.1)

theorem gridCells_ordered : gridCells.Pairwise CellBefore := by
  unfold gridCells
  rw [List.pairwise_flatMap]
  refine ⟨fun y _ => ?_, ?_⟩
  · rw [List.pairwise_map]; exact List.pairwise_lt_range.imp fun h => .inr ⟨rfl, h⟩
  · refine List.pairwise_lt_range.imp fun {a b} h => ?_
    simp only [List.mem_map]
    rintro _ ⟨x, -, rfl⟩ _ ⟨x', -, rfl⟩; exact .inl h

theorem spriteRowCells_ordered (ox py : Nat) (bits : Byte) : (spriteRowCells ox py bits).Pairwise CellBefore := by
  unfold spriteRowCells
  rw [List.pairwise_map]
  exact (List.pairwise_lt_range.filter _).imp fun h => .inr ⟨rfl, by simpa using h⟩

theorem spriteCells_ordered (ox oy : Nat) (rows : List Byte) : (spriteCells ox oy rows).Pairwise CellBefore := by
  induction rows generalizing oy with
  | nil => simp [spriteCells]
  | cons bits rest ih =>
    simp only [spriteCells]
    split
    · rw [List.pairwise_append]
      refine ⟨spriteRowCells_ordered .., ih _, ?_⟩
      rintro ⟨x, y⟩ h ⟨x', y'⟩ h'
      rw [mem_spriteRowCells] at h
      rw [mem_spriteCells] at h'
      left; show y < y'; omega
    · simp

/-- Two lists of cells in that order with the same cells are the same list. -/
theorem cells_eq_of_ordered {a b : List (Nat × Nat)} (ha : a.Pairwise CellBefore) (hb : b.Pairwise CellBefore)
    (h : a.Perm b) : a = b := by
  apply List.Perm.eq_of_pairwise (le := CellBefore) _ ha hb h
  rintro ⟨p, q⟩ ⟨r, t⟩ _ _ h1 h2
  unfold CellBefore at h1 h2
  simp only at h1 h2
  omega

end Sys2Proof.Machine
end

