-- ==== Sys2Proof/Laws/Memory.lean ====
section
/-! SUPPORT. Memory: a read after a write, at the same address and at another; and that every operation on memory keeps
the canonical form. -/

namespace Sys2Proof.Machine

theorem Memory.read_remove (m : Memory) (a a' : Nat) :
    (m.remove a).read a' = if a' = a then Memory.background a else m.read a' := by
  induction m with
  | nil => simp [Memory.remove, Memory.read]; rintro rfl; rfl
  | cons c rest ih =>
    obtain ⟨k, b⟩ := c
    simp only [Memory.remove, List.filter_cons] at ih ⊢
    by_cases hk : k = a <;> simp [hk, Memory.read] <;> grind

theorem Memory.read_insertCell_same (m : Memory) (a : Nat) (b : Byte) (h : ∀ c ∈ m, c.1 ≠ a) :
    (m.insertCell a b).read a = b := by
  induction m with
  | nil => simp [Memory.insertCell, Memory.read]
  | cons c rest ih =>
    obtain ⟨k, d⟩ := c
    have hk : k ≠ a := h (k, d) (by simp)
    simp only [Memory.insertCell]
    split
    · simp [Memory.read]
    · simp [Memory.read, hk, ih fun c hc => h c (by simp [hc])]

theorem Memory.read_insertCell_other (m : Memory) (a a' : Nat) (b : Byte) (h : a' ≠ a) :
    (m.insertCell a b).read a' = m.read a' := by
  induction m with
  | nil => simp [Memory.insertCell, Memory.read, Ne.symm h]
  | cons c rest ih =>
    obtain ⟨k, d⟩ := c
    simp only [Memory.insertCell]
    split <;> simp [Memory.read, Ne.symm h, ih]

/-- A write gives its byte at its address and leaves every other address alone. -/
theorem Memory.read_write (m : Memory) (a a' : Nat) (b : Byte) :
    (m.write a b).read a' = if a' = a then b else m.read a' := by
  unfold Memory.write
  split
  · next h => simp [Memory.read_remove, h]
  · by_cases h : a' = a
    · subst h
      simpa using Memory.read_insertCell_same _ _ _ (by simp [Memory.remove])
    · simp [h, Memory.read_insertCell_other _ _ _ _ h, Memory.read_remove]

/-- The bytes written in a row are read back at their addresses; every other address is left alone. -/
theorem Memory.read_writeBytes (m : Memory) (addr : Nat) (bytes : List Byte) (a : Nat) :
    (m.writeBytes addr bytes).read a =
      if addr ≤ a ∧ a < addr + bytes.length then bytes.getD (a - addr) 0 else m.read a := by
  induction bytes generalizing m addr with
  | nil =>
    have h : ¬(addr ≤ a ∧ a < addr + 0) := by omega
    rw [List.length_nil, if_neg h]; rfl
  | cons b rest ih =>
    simp only [Memory.writeBytes, ih, Memory.read_write, List.length_cons]
    by_cases h : a = addr
    · subst h; simp
    · by_cases h2 : addr + 1 ≤ a ∧ a < addr + 1 + rest.length
      · have h3 : a - addr = (a - (addr + 1)) + 1 := by omega
        have h4 : addr ≤ a ∧ a < addr + (rest.length + 1) := by omega
        simp [h2, h3, h4]
      · have h4 : ¬(addr ≤ a ∧ a < addr + (rest.length + 1)) := by omega
        rw [if_neg h2, if_neg h4, if_neg h]

/-! ### The canonical form -/

theorem Memory.wfFrom_cons (lo a : Nat) (b : Byte) (m : Memory) :
    Memory.wfFrom lo ((a, b) :: m) = true ↔
      lo ≤ a ∧ a < 4096 ∧ b ≠ Memory.background a ∧ Memory.wfFrom (a + 1) m = true := by
  simp [Memory.wfFrom, and_assoc]

theorem Memory.wfFrom_mono {lo lo' : Nat} {m : Memory} (h : Memory.wfFrom lo m = true) (hl : lo' ≤ lo) :
    Memory.wfFrom lo' m = true := by
  cases m with
  | nil => rfl
  | cons c rest =>
    obtain ⟨a, b⟩ := c
    rw [Memory.wfFrom_cons] at h ⊢
    exact ⟨by omega, h.2⟩

theorem Memory.wfFrom_remove {lo : Nat} {m : Memory} (a : Nat) (h : Memory.wfFrom lo m = true) :
    Memory.wfFrom lo (m.remove a) = true := by
  induction m generalizing lo with
  | nil => rfl
  | cons c rest ih =>
    obtain ⟨k, b⟩ := c
    rw [Memory.wfFrom_cons] at h
    have hr := ih h.2.2.2
    by_cases hk : k = a
    · simpa [Memory.remove, hk] using Memory.wfFrom_mono hr (by omega : lo ≤ k + 1)
    · have hc : Memory.remove ((k, b) :: rest) a = (k, b) :: Memory.remove rest a := by
        simp [Memory.remove, hk]
      rw [hc, Memory.wfFrom_cons]
      exact ⟨h.1, h.2.1, h.2.2.1, hr⟩

theorem Memory.wfFrom_insertCell {lo : Nat} {m : Memory} {a : Nat} {b : Byte} (h : Memory.wfFrom lo m = true)
    (hlo : lo ≤ a) (ha : a < 4096) (hb : b ≠ Memory.background a) (hne : ∀ c ∈ m, c.1 ≠ a) :
    Memory.wfFrom lo (m.insertCell a b) = true := by
  induction m generalizing lo with
  | nil => simp [Memory.insertCell, Memory.wfFrom, hlo, ha, hb]
  | cons c rest ih =>
    obtain ⟨k, d⟩ := c
    have hk : k ≠ a := hne (k, d) (by simp)
    have h' := (Memory.wfFrom_cons ..).1 h
    simp only [Memory.insertCell]
    split
    · next hak => exact (Memory.wfFrom_cons ..).2 ⟨hlo, ha, hb, (Memory.wfFrom_cons ..).2 ⟨hak, h'.2⟩⟩
    · exact (Memory.wfFrom_cons ..).2
        ⟨h'.1, h'.2.1, h'.2.2.1, ih h'.2.2.2 (by omega) fun c hc => hne c (by simp [hc])⟩

/-- A write inside the address space keeps the canonical form. -/
theorem Memory.wf_write {m : Memory} {a : Nat} (b : Byte) (h : m.wf = true) (ha : a < 4096) :
    (m.write a b).wf = true := by
  unfold Memory.write
  split
  · exact Memory.wfFrom_remove a h
  · next hb => exact Memory.wfFrom_insertCell (Memory.wfFrom_remove a h) (by omega) ha hb (by simp [Memory.remove])

/-- Writing bytes in a row inside the address space keeps the canonical form. -/
theorem Memory.wf_writeBytes {m : Memory} {addr : Nat} {bytes : List Byte} (h : m.wf = true)
    (ha : addr + bytes.length ≤ 4096) : (m.writeBytes addr bytes).wf = true := by
  induction bytes generalizing m addr with
  | nil => exact h
  | cons b rest ih =>
    simp only [List.length_cons] at ha
    exact ih (Memory.wf_write b h (by omega)) (by omega)

/-- Memory at reset is in canonical form. -/
theorem State.reset_mem_wf : State.reset.mem.wf = true := rfl

/-- Below its first possible address a memory in canonical form reads as without cells. -/
theorem Memory.read_below {lo : Nat} {m : Memory} (h : Memory.wfFrom lo m = true) {a : Nat} (ha : a < lo) :
    m.read a = Memory.background a := by
  induction m generalizing lo with
  | nil => rfl
  | cons c rest ih =>
    obtain ⟨k, b⟩ := c
    rw [Memory.wfFrom_cons] at h
    have hk : k ≠ a := by omega
    simp [Memory.read, hk, ih h.2.2.2 (by omega)]

@[simp] theorem State.readByte_eq (s : State) (a : Nat) : s.readByte a = s.mem.read a := rfl

end Sys2Proof.Machine
end

