-- ==== Sys2Proof/Laws/State.lean ====
section
/-! SUPPORT. What each update of the state does to each field: one lemma per field per update, true by `rfl`, so that
no later proof unfolds a record update. -/

namespace Sys2Proof.Machine

variable (s : State)

/-! ### `writeV` -/

@[simp] theorem State.writeV_v (x : Reg) (b : Byte) : (s.writeV x b).v = s.v.set x b := rfl
@[simp] theorem State.writeV_index (x : Reg) (b : Byte) : (s.writeV x b).index = s.index := rfl
@[simp] theorem State.writeV_pc (x : Reg) (b : Byte) : (s.writeV x b).pc = s.pc := rfl
@[simp] theorem State.writeV_stack (x : Reg) (b : Byte) : (s.writeV x b).stack = s.stack := rfl
@[simp] theorem State.writeV_dt (x : Reg) (b : Byte) : (s.writeV x b).dt = s.dt := rfl
@[simp] theorem State.writeV_st (x : Reg) (b : Byte) : (s.writeV x b).st = s.st := rfl
@[simp] theorem State.writeV_fb (x : Reg) (b : Byte) : (s.writeV x b).fb = s.fb := rfl
@[simp] theorem State.writeV_key (x : Reg) (b : Byte) : (s.writeV x b).key = s.key := rfl
@[simp] theorem State.writeV_wait (x : Reg) (b : Byte) : (s.writeV x b).wait = s.wait := rfl
@[simp] theorem State.writeV_beeping (x : Reg) (b : Byte) : (s.writeV x b).beeping = s.beeping := rfl
@[simp] theorem State.writeV_fault (x : Reg) (b : Byte) : (s.writeV x b).fault = s.fault := rfl
@[simp] theorem State.writeV_mem (x : Reg) (b : Byte) : (s.writeV x b).mem = s.mem := rfl
@[simp] theorem State.writeV_events (x : Reg) (b : Byte) : (s.writeV x b).events = s.events := rfl
@[simp] theorem State.writeV_params (x : Reg) (b : Byte) : (s.writeV x b).params = s.params := rfl
@[simp] theorem State.writeV_draws (x : Reg) (b : Byte) : (s.writeV x b).draws = s.draws := rfl
@[simp] theorem State.writeV_cyclesLeft (x : Reg) (b : Byte) : (s.writeV x b).cyclesLeft = s.cyclesLeft := rfl
@[simp] theorem State.writeV_script (x : Reg) (b : Byte) : (s.writeV x b).script = s.script := rfl

/-! ### `writeFlag` -/

@[simp] theorem State.writeFlag_v (c : Bool) : (s.writeFlag c).v = s.v.set VF (if c then 1 else 0) := rfl
@[simp] theorem State.writeFlag_index (c : Bool) : (s.writeFlag c).index = s.index := rfl
@[simp] theorem State.writeFlag_pc (c : Bool) : (s.writeFlag c).pc = s.pc := rfl
@[simp] theorem State.writeFlag_stack (c : Bool) : (s.writeFlag c).stack = s.stack := rfl
@[simp] theorem State.writeFlag_dt (c : Bool) : (s.writeFlag c).dt = s.dt := rfl
@[simp] theorem State.writeFlag_st (c : Bool) : (s.writeFlag c).st = s.st := rfl
@[simp] theorem State.writeFlag_fb (c : Bool) : (s.writeFlag c).fb = s.fb := rfl
@[simp] theorem State.writeFlag_key (c : Bool) : (s.writeFlag c).key = s.key := rfl
@[simp] theorem State.writeFlag_wait (c : Bool) : (s.writeFlag c).wait = s.wait := rfl
@[simp] theorem State.writeFlag_beeping (c : Bool) : (s.writeFlag c).beeping = s.beeping := rfl
@[simp] theorem State.writeFlag_fault (c : Bool) : (s.writeFlag c).fault = s.fault := rfl
@[simp] theorem State.writeFlag_mem (c : Bool) : (s.writeFlag c).mem = s.mem := rfl
@[simp] theorem State.writeFlag_events (c : Bool) : (s.writeFlag c).events = s.events := rfl
@[simp] theorem State.writeFlag_params (c : Bool) : (s.writeFlag c).params = s.params := rfl
@[simp] theorem State.writeFlag_draws (c : Bool) : (s.writeFlag c).draws = s.draws := rfl
@[simp] theorem State.writeFlag_cyclesLeft (c : Bool) : (s.writeFlag c).cyclesLeft = s.cyclesLeft := rfl
@[simp] theorem State.writeFlag_script (c : Bool) : (s.writeFlag c).script = s.script := rfl

/-! ### `writeIndex` -/

@[simp] theorem State.writeIndex_v (a : Word) : (s.writeIndex a).v = s.v := rfl
@[simp] theorem State.writeIndex_index (a : Word) : (s.writeIndex a).index = a := rfl
@[simp] theorem State.writeIndex_pc (a : Word) : (s.writeIndex a).pc = s.pc := rfl
@[simp] theorem State.writeIndex_stack (a : Word) : (s.writeIndex a).stack = s.stack := rfl
@[simp] theorem State.writeIndex_dt (a : Word) : (s.writeIndex a).dt = s.dt := rfl
@[simp] theorem State.writeIndex_st (a : Word) : (s.writeIndex a).st = s.st := rfl
@[simp] theorem State.writeIndex_fb (a : Word) : (s.writeIndex a).fb = s.fb := rfl
@[simp] theorem State.writeIndex_key (a : Word) : (s.writeIndex a).key = s.key := rfl
@[simp] theorem State.writeIndex_wait (a : Word) : (s.writeIndex a).wait = s.wait := rfl
@[simp] theorem State.writeIndex_beeping (a : Word) : (s.writeIndex a).beeping = s.beeping := rfl
@[simp] theorem State.writeIndex_fault (a : Word) : (s.writeIndex a).fault = s.fault := rfl
@[simp] theorem State.writeIndex_mem (a : Word) : (s.writeIndex a).mem = s.mem := rfl
@[simp] theorem State.writeIndex_events (a : Word) : (s.writeIndex a).events = s.events := rfl
@[simp] theorem State.writeIndex_params (a : Word) : (s.writeIndex a).params = s.params := rfl
@[simp] theorem State.writeIndex_draws (a : Word) : (s.writeIndex a).draws = s.draws := rfl
@[simp] theorem State.writeIndex_cyclesLeft (a : Word) : (s.writeIndex a).cyclesLeft = s.cyclesLeft := rfl
@[simp] theorem State.writeIndex_script (a : Word) : (s.writeIndex a).script = s.script := rfl

/-! ### `writeDT` -/

@[simp] theorem State.writeDT_v (b : Byte) : (s.writeDT b).v = s.v := rfl
@[simp] theorem State.writeDT_index (b : Byte) : (s.writeDT b).index = s.index := rfl
@[simp] theorem State.writeDT_pc (b : Byte) : (s.writeDT b).pc = s.pc := rfl
@[simp] theorem State.writeDT_stack (b : Byte) : (s.writeDT b).stack = s.stack := rfl
@[simp] theorem State.writeDT_dt (b : Byte) : (s.writeDT b).dt = b := rfl
@[simp] theorem State.writeDT_st (b : Byte) : (s.writeDT b).st = s.st := rfl
@[simp] theorem State.writeDT_fb (b : Byte) : (s.writeDT b).fb = s.fb := rfl
@[simp] theorem State.writeDT_key (b : Byte) : (s.writeDT b).key = s.key := rfl
@[simp] theorem State.writeDT_wait (b : Byte) : (s.writeDT b).wait = s.wait := rfl
@[simp] theorem State.writeDT_beeping (b : Byte) : (s.writeDT b).beeping = s.beeping := rfl
@[simp] theorem State.writeDT_fault (b : Byte) : (s.writeDT b).fault = s.fault := rfl
@[simp] theorem State.writeDT_mem (b : Byte) : (s.writeDT b).mem = s.mem := rfl
@[simp] theorem State.writeDT_events (b : Byte) : (s.writeDT b).events = s.events := rfl
@[simp] theorem State.writeDT_params (b : Byte) : (s.writeDT b).params = s.params := rfl
@[simp] theorem State.writeDT_draws (b : Byte) : (s.writeDT b).draws = s.draws := rfl
@[simp] theorem State.writeDT_cyclesLeft (b : Byte) : (s.writeDT b).cyclesLeft = s.cyclesLeft := rfl
@[simp] theorem State.writeDT_script (b : Byte) : (s.writeDT b).script = s.script := rfl

/-! ### `writeST` -/

@[simp] theorem State.writeST_v (b : Byte) : (s.writeST b).v = s.v := rfl
@[simp] theorem State.writeST_index (b : Byte) : (s.writeST b).index = s.index := rfl
@[simp] theorem State.writeST_pc (b : Byte) : (s.writeST b).pc = s.pc := rfl
@[simp] theorem State.writeST_stack (b : Byte) : (s.writeST b).stack = s.stack := rfl
@[simp] theorem State.writeST_dt (b : Byte) : (s.writeST b).dt = s.dt := rfl
@[simp] theorem State.writeST_st (b : Byte) : (s.writeST b).st = b := rfl
@[simp] theorem State.writeST_fb (b : Byte) : (s.writeST b).fb = s.fb := rfl
@[simp] theorem State.writeST_key (b : Byte) : (s.writeST b).key = s.key := rfl
@[simp] theorem State.writeST_wait (b : Byte) : (s.writeST b).wait = s.wait := rfl
@[simp] theorem State.writeST_beeping (b : Byte) : (s.writeST b).beeping = s.beeping := rfl
@[simp] theorem State.writeST_fault (b : Byte) : (s.writeST b).fault = s.fault := rfl
@[simp] theorem State.writeST_mem (b : Byte) : (s.writeST b).mem = s.mem := rfl
@[simp] theorem State.writeST_events (b : Byte) : (s.writeST b).events = s.events := rfl
@[simp] theorem State.writeST_params (b : Byte) : (s.writeST b).params = s.params := rfl
@[simp] theorem State.writeST_draws (b : Byte) : (s.writeST b).draws = s.draws := rfl
@[simp] theorem State.writeST_cyclesLeft (b : Byte) : (s.writeST b).cyclesLeft = s.cyclesLeft := rfl
@[simp] theorem State.writeST_script (b : Byte) : (s.writeST b).script = s.script := rfl

/-! ### `writeWait` -/

@[simp] theorem State.writeWait_v (w : Option Reg) : (s.writeWait w).v = s.v := rfl
@[simp] theorem State.writeWait_index (w : Option Reg) : (s.writeWait w).index = s.index := rfl
@[simp] theorem State.writeWait_pc (w : Option Reg) : (s.writeWait w).pc = s.pc := rfl
@[simp] theorem State.writeWait_stack (w : Option Reg) : (s.writeWait w).stack = s.stack := rfl
@[simp] theorem State.writeWait_dt (w : Option Reg) : (s.writeWait w).dt = s.dt := rfl
@[simp] theorem State.writeWait_st (w : Option Reg) : (s.writeWait w).st = s.st := rfl
@[simp] theorem State.writeWait_fb (w : Option Reg) : (s.writeWait w).fb = s.fb := rfl
@[simp] theorem State.writeWait_key (w : Option Reg) : (s.writeWait w).key = s.key := rfl
@[simp] theorem State.writeWait_wait (w : Option Reg) : (s.writeWait w).wait = w := rfl
@[simp] theorem State.writeWait_beeping (w : Option Reg) : (s.writeWait w).beeping = s.beeping := rfl
@[simp] theorem State.writeWait_fault (w : Option Reg) : (s.writeWait w).fault = s.fault := rfl
@[simp] theorem State.writeWait_mem (w : Option Reg) : (s.writeWait w).mem = s.mem := rfl
@[simp] theorem State.writeWait_events (w : Option Reg) : (s.writeWait w).events = s.events := rfl
@[simp] theorem State.writeWait_params (w : Option Reg) : (s.writeWait w).params = s.params := rfl
@[simp] theorem State.writeWait_draws (w : Option Reg) : (s.writeWait w).draws = s.draws := rfl
@[simp] theorem State.writeWait_cyclesLeft (w : Option Reg) : (s.writeWait w).cyclesLeft = s.cyclesLeft := rfl
@[simp] theorem State.writeWait_script (w : Option Reg) : (s.writeWait w).script = s.script := rfl

/-! ### `writeKey` -/

@[simp] theorem State.writeKey_v (k : Option Key) : (s.writeKey k).v = s.v := rfl
@[simp] theorem State.writeKey_index (k : Option Key) : (s.writeKey k).index = s.index := rfl
@[simp] theorem State.writeKey_pc (k : Option Key) : (s.writeKey k).pc = s.pc := rfl
@[simp] theorem State.writeKey_stack (k : Option Key) : (s.writeKey k).stack = s.stack := rfl
@[simp] theorem State.writeKey_dt (k : Option Key) : (s.writeKey k).dt = s.dt := rfl
@[simp] theorem State.writeKey_st (k : Option Key) : (s.writeKey k).st = s.st := rfl
@[simp] theorem State.writeKey_fb (k : Option Key) : (s.writeKey k).fb = s.fb := rfl
@[simp] theorem State.writeKey_key (k : Option Key) : (s.writeKey k).key = k := rfl
@[simp] theorem State.writeKey_wait (k : Option Key) : (s.writeKey k).wait = s.wait := rfl
@[simp] theorem State.writeKey_beeping (k : Option Key) : (s.writeKey k).beeping = s.beeping := rfl
@[simp] theorem State.writeKey_fault (k : Option Key) : (s.writeKey k).fault = s.fault := rfl
@[simp] theorem State.writeKey_mem (k : Option Key) : (s.writeKey k).mem = s.mem := rfl
@[simp] theorem State.writeKey_events (k : Option Key) : (s.writeKey k).events = s.events := rfl
@[simp] theorem State.writeKey_params (k : Option Key) : (s.writeKey k).params = s.params := rfl
@[simp] theorem State.writeKey_draws (k : Option Key) : (s.writeKey k).draws = s.draws := rfl
@[simp] theorem State.writeKey_cyclesLeft (k : Option Key) : (s.writeKey k).cyclesLeft = s.cyclesLeft := rfl
@[simp] theorem State.writeKey_script (k : Option Key) : (s.writeKey k).script = s.script := rfl

/-! ### `advance` -/

@[simp] theorem State.advance_v : (s.advance).v = s.v := rfl
@[simp] theorem State.advance_index : (s.advance).index = s.index := rfl
@[simp] theorem State.advance_pc : (s.advance).pc = s.pc + 2 := rfl
@[simp] theorem State.advance_stack : (s.advance).stack = s.stack := rfl
@[simp] theorem State.advance_dt : (s.advance).dt = s.dt := rfl
@[simp] theorem State.advance_st : (s.advance).st = s.st := rfl
@[simp] theorem State.advance_fb : (s.advance).fb = s.fb := rfl
@[simp] theorem State.advance_key : (s.advance).key = s.key := rfl
@[simp] theorem State.advance_wait : (s.advance).wait = s.wait := rfl
@[simp] theorem State.advance_beeping : (s.advance).beeping = s.beeping := rfl
@[simp] theorem State.advance_fault : (s.advance).fault = s.fault := rfl
@[simp] theorem State.advance_mem : (s.advance).mem = s.mem := rfl
@[simp] theorem State.advance_events : (s.advance).events = s.events := rfl
@[simp] theorem State.advance_params : (s.advance).params = s.params := rfl
@[simp] theorem State.advance_draws : (s.advance).draws = s.draws := rfl
@[simp] theorem State.advance_cyclesLeft : (s.advance).cyclesLeft = s.cyclesLeft := rfl
@[simp] theorem State.advance_script : (s.advance).script = s.script := rfl

/-! ### `skipIf` -/

@[simp] theorem State.skipIf_v (c : Bool) : (s.skipIf c).v = s.v := rfl
@[simp] theorem State.skipIf_index (c : Bool) : (s.skipIf c).index = s.index := rfl
@[simp] theorem State.skipIf_pc (c : Bool) : (s.skipIf c).pc = s.pc + if c then 4 else 2 := rfl
@[simp] theorem State.skipIf_stack (c : Bool) : (s.skipIf c).stack = s.stack := rfl
@[simp] theorem State.skipIf_dt (c : Bool) : (s.skipIf c).dt = s.dt := rfl
@[simp] theorem State.skipIf_st (c : Bool) : (s.skipIf c).st = s.st := rfl
@[simp] theorem State.skipIf_fb (c : Bool) : (s.skipIf c).fb = s.fb := rfl
@[simp] theorem State.skipIf_key (c : Bool) : (s.skipIf c).key = s.key := rfl
@[simp] theorem State.skipIf_wait (c : Bool) : (s.skipIf c).wait = s.wait := rfl
@[simp] theorem State.skipIf_beeping (c : Bool) : (s.skipIf c).beeping = s.beeping := rfl
@[simp] theorem State.skipIf_fault (c : Bool) : (s.skipIf c).fault = s.fault := rfl
@[simp] theorem State.skipIf_mem (c : Bool) : (s.skipIf c).mem = s.mem := rfl
@[simp] theorem State.skipIf_events (c : Bool) : (s.skipIf c).events = s.events := rfl
@[simp] theorem State.skipIf_params (c : Bool) : (s.skipIf c).params = s.params := rfl
@[simp] theorem State.skipIf_draws (c : Bool) : (s.skipIf c).draws = s.draws := rfl
@[simp] theorem State.skipIf_cyclesLeft (c : Bool) : (s.skipIf c).cyclesLeft = s.cyclesLeft := rfl
@[simp] theorem State.skipIf_script (c : Bool) : (s.skipIf c).script = s.script := rfl

/-! ### `jumpTo` -/

@[simp] theorem State.jumpTo_v (a : Word) : (s.jumpTo a).v = s.v := rfl
@[simp] theorem State.jumpTo_index (a : Word) : (s.jumpTo a).index = s.index := rfl
@[simp] theorem State.jumpTo_pc (a : Word) : (s.jumpTo a).pc = a := rfl
@[simp] theorem State.jumpTo_stack (a : Word) : (s.jumpTo a).stack = s.stack := rfl
@[simp] theorem State.jumpTo_dt (a : Word) : (s.jumpTo a).dt = s.dt := rfl
@[simp] theorem State.jumpTo_st (a : Word) : (s.jumpTo a).st = s.st := rfl
@[simp] theorem State.jumpTo_fb (a : Word) : (s.jumpTo a).fb = s.fb := rfl
@[simp] theorem State.jumpTo_key (a : Word) : (s.jumpTo a).key = s.key := rfl
@[simp] theorem State.jumpTo_wait (a : Word) : (s.jumpTo a).wait = s.wait := rfl
@[simp] theorem State.jumpTo_beeping (a : Word) : (s.jumpTo a).beeping = s.beeping := rfl
@[simp] theorem State.jumpTo_fault (a : Word) : (s.jumpTo a).fault = s.fault := rfl
@[simp] theorem State.jumpTo_mem (a : Word) : (s.jumpTo a).mem = s.mem := rfl
@[simp] theorem State.jumpTo_events (a : Word) : (s.jumpTo a).events = s.events := rfl
@[simp] theorem State.jumpTo_params (a : Word) : (s.jumpTo a).params = s.params := rfl
@[simp] theorem State.jumpTo_draws (a : Word) : (s.jumpTo a).draws = s.draws := rfl
@[simp] theorem State.jumpTo_cyclesLeft (a : Word) : (s.jumpTo a).cyclesLeft = s.cyclesLeft := rfl
@[simp] theorem State.jumpTo_script (a : Word) : (s.jumpTo a).script = s.script := rfl

/-! ### `writeBytes` -/

@[simp] theorem State.writeBytes_v (a : Nat) (bs : List Byte) : (s.writeBytes a bs).v = s.v := rfl
@[simp] theorem State.writeBytes_index (a : Nat) (bs : List Byte) : (s.writeBytes a bs).index = s.index := rfl
@[simp] theorem State.writeBytes_pc (a : Nat) (bs : List Byte) : (s.writeBytes a bs).pc = s.pc := rfl
@[simp] theorem State.writeBytes_stack (a : Nat) (bs : List Byte) : (s.writeBytes a bs).stack = s.stack := rfl
@[simp] theorem State.writeBytes_dt (a : Nat) (bs : List Byte) : (s.writeBytes a bs).dt = s.dt := rfl
@[simp] theorem State.writeBytes_st (a : Nat) (bs : List Byte) : (s.writeBytes a bs).st = s.st := rfl
@[simp] theorem State.writeBytes_fb (a : Nat) (bs : List Byte) : (s.writeBytes a bs).fb = s.fb := rfl
@[simp] theorem State.writeBytes_key (a : Nat) (bs : List Byte) : (s.writeBytes a bs).key = s.key := rfl
@[simp] theorem State.writeBytes_wait (a : Nat) (bs : List Byte) : (s.writeBytes a bs).wait = s.wait := rfl
@[simp] theorem State.writeBytes_beeping (a : Nat) (bs : List Byte) : (s.writeBytes a bs).beeping = s.beeping := rfl
@[simp] theorem State.writeBytes_fault (a : Nat) (bs : List Byte) : (s.writeBytes a bs).fault = s.fault := rfl
@[simp] theorem State.writeBytes_mem (a : Nat) (bs : List Byte) : (s.writeBytes a bs).mem = s.mem.writeBytes a bs := rfl
@[simp] theorem State.writeBytes_events (a : Nat) (bs : List Byte) : (s.writeBytes a bs).events = s.events := rfl
@[simp] theorem State.writeBytes_params (a : Nat) (bs : List Byte) : (s.writeBytes a bs).params = s.params := rfl
@[simp] theorem State.writeBytes_draws (a : Nat) (bs : List Byte) : (s.writeBytes a bs).draws = s.draws := rfl
@[simp] theorem State.writeBytes_cyclesLeft (a : Nat) (bs : List Byte) : (s.writeBytes a bs).cyclesLeft = s.cyclesLeft := rfl
@[simp] theorem State.writeBytes_script (a : Nat) (bs : List Byte) : (s.writeBytes a bs).script = s.script := rfl

/-! ### `raise` -/

@[simp] theorem State.raise_v (c : FaultCause) : (s.raise c).v = s.v := rfl
@[simp] theorem State.raise_index (c : FaultCause) : (s.raise c).index = s.index := rfl
@[simp] theorem State.raise_pc (c : FaultCause) : (s.raise c).pc = s.pc := rfl
@[simp] theorem State.raise_stack (c : FaultCause) : (s.raise c).stack = s.stack := rfl
@[simp] theorem State.raise_dt (c : FaultCause) : (s.raise c).dt = s.dt := rfl
@[simp] theorem State.raise_st (c : FaultCause) : (s.raise c).st = s.st := rfl
@[simp] theorem State.raise_fb (c : FaultCause) : (s.raise c).fb = s.fb := rfl
@[simp] theorem State.raise_key (c : FaultCause) : (s.raise c).key = s.key := rfl
@[simp] theorem State.raise_wait (c : FaultCause) : (s.raise c).wait = s.wait := rfl
@[simp] theorem State.raise_beeping (c : FaultCause) : (s.raise c).beeping = s.beeping := rfl
@[simp] theorem State.raise_fault (c : FaultCause) : (s.raise c).fault = some { pc := s.pc, cause := c } := rfl
@[simp] theorem State.raise_mem (c : FaultCause) : (s.raise c).mem = s.mem := rfl
@[simp] theorem State.raise_events (c : FaultCause) : (s.raise c).events = s.events := rfl
@[simp] theorem State.raise_params (c : FaultCause) : (s.raise c).params = s.params := rfl
@[simp] theorem State.raise_draws (c : FaultCause) : (s.raise c).draws = s.draws := rfl
@[simp] theorem State.raise_cyclesLeft (c : FaultCause) : (s.raise c).cyclesLeft = s.cyclesLeft := rfl
@[simp] theorem State.raise_script (c : FaultCause) : (s.raise c).script = s.script := rfl

/-! ### `push` -/

@[simp] theorem State.push_v (a : Word) : (s.push a).v = s.v := rfl
@[simp] theorem State.push_index (a : Word) : (s.push a).index = s.index := rfl
@[simp] theorem State.push_pc (a : Word) : (s.push a).pc = s.pc := rfl
@[simp] theorem State.push_stack (a : Word) : (s.push a).stack = s.stack ++ [a] := rfl
@[simp] theorem State.push_dt (a : Word) : (s.push a).dt = s.dt := rfl
@[simp] theorem State.push_st (a : Word) : (s.push a).st = s.st := rfl
@[simp] theorem State.push_fb (a : Word) : (s.push a).fb = s.fb := rfl
@[simp] theorem State.push_key (a : Word) : (s.push a).key = s.key := rfl
@[simp] theorem State.push_wait (a : Word) : (s.push a).wait = s.wait := rfl
@[simp] theorem State.push_beeping (a : Word) : (s.push a).beeping = s.beeping := rfl
@[simp] theorem State.push_fault (a : Word) : (s.push a).fault = s.fault := rfl
@[simp] theorem State.push_mem (a : Word) : (s.push a).mem = s.mem := rfl
@[simp] theorem State.push_events (a : Word) : (s.push a).events = s.events := rfl
@[simp] theorem State.push_params (a : Word) : (s.push a).params = s.params := rfl
@[simp] theorem State.push_draws (a : Word) : (s.push a).draws = s.draws := rfl
@[simp] theorem State.push_cyclesLeft (a : Word) : (s.push a).cyclesLeft = s.cyclesLeft := rfl
@[simp] theorem State.push_script (a : Word) : (s.push a).script = s.script := rfl

/-! ### `applyDrawing` -/

@[simp] theorem State.applyDrawing_v (d : Drawing) : (s.applyDrawing d).v = s.v := rfl
@[simp] theorem State.applyDrawing_index (d : Drawing) : (s.applyDrawing d).index = s.index := rfl
@[simp] theorem State.applyDrawing_pc (d : Drawing) : (s.applyDrawing d).pc = s.pc := rfl
@[simp] theorem State.applyDrawing_stack (d : Drawing) : (s.applyDrawing d).stack = s.stack := rfl
@[simp] theorem State.applyDrawing_dt (d : Drawing) : (s.applyDrawing d).dt = s.dt := rfl
@[simp] theorem State.applyDrawing_st (d : Drawing) : (s.applyDrawing d).st = s.st := rfl
@[simp] theorem State.applyDrawing_fb (d : Drawing) : (s.applyDrawing d).fb = d.fb := rfl
@[simp] theorem State.applyDrawing_key (d : Drawing) : (s.applyDrawing d).key = s.key := rfl
@[simp] theorem State.applyDrawing_wait (d : Drawing) : (s.applyDrawing d).wait = s.wait := rfl
@[simp] theorem State.applyDrawing_beeping (d : Drawing) : (s.applyDrawing d).beeping = s.beeping := rfl
@[simp] theorem State.applyDrawing_fault (d : Drawing) : (s.applyDrawing d).fault = s.fault := rfl
@[simp] theorem State.applyDrawing_mem (d : Drawing) : (s.applyDrawing d).mem = s.mem := rfl
@[simp] theorem State.applyDrawing_events (d : Drawing) : (s.applyDrawing d).events = s.events ++ d.events := rfl
@[simp] theorem State.applyDrawing_params (d : Drawing) : (s.applyDrawing d).params = s.params := rfl
@[simp] theorem State.applyDrawing_draws (d : Drawing) : (s.applyDrawing d).draws = s.draws := rfl
@[simp] theorem State.applyDrawing_cyclesLeft (d : Drawing) : (s.applyDrawing d).cyclesLeft = s.cyclesLeft := rfl
@[simp] theorem State.applyDrawing_script (d : Drawing) : (s.applyDrawing d).script = s.script := rfl

/-! ### `emit` -/

@[simp] theorem State.emit_v (e : Event) : (s.emit e).v = s.v := rfl
@[simp] theorem State.emit_index (e : Event) : (s.emit e).index = s.index := rfl
@[simp] theorem State.emit_pc (e : Event) : (s.emit e).pc = s.pc := rfl
@[simp] theorem State.emit_stack (e : Event) : (s.emit e).stack = s.stack := rfl
@[simp] theorem State.emit_dt (e : Event) : (s.emit e).dt = s.dt := rfl
@[simp] theorem State.emit_st (e : Event) : (s.emit e).st = s.st := rfl
@[simp] theorem State.emit_fb (e : Event) : (s.emit e).fb = s.fb := rfl
@[simp] theorem State.emit_key (e : Event) : (s.emit e).key = s.key := rfl
@[simp] theorem State.emit_wait (e : Event) : (s.emit e).wait = s.wait := rfl
@[simp] theorem State.emit_beeping (e : Event) : (s.emit e).beeping = s.beeping := rfl
@[simp] theorem State.emit_fault (e : Event) : (s.emit e).fault = s.fault := rfl
@[simp] theorem State.emit_mem (e : Event) : (s.emit e).mem = s.mem := rfl
@[simp] theorem State.emit_events (e : Event) : (s.emit e).events = s.events ++ [e] := rfl
@[simp] theorem State.emit_params (e : Event) : (s.emit e).params = s.params := rfl
@[simp] theorem State.emit_draws (e : Event) : (s.emit e).draws = s.draws := rfl
@[simp] theorem State.emit_cyclesLeft (e : Event) : (s.emit e).cyclesLeft = s.cyclesLeft := rfl
@[simp] theorem State.emit_script (e : Event) : (s.emit e).script = s.script := rfl

/-! ### `afterDraw` -/

@[simp] theorem State.afterDraw_v : (s.afterDraw).v = s.v := rfl
@[simp] theorem State.afterDraw_index : (s.afterDraw).index = s.index := rfl
@[simp] theorem State.afterDraw_pc : (s.afterDraw).pc = s.pc := rfl
@[simp] theorem State.afterDraw_stack : (s.afterDraw).stack = s.stack := rfl
@[simp] theorem State.afterDraw_dt : (s.afterDraw).dt = s.dt := rfl
@[simp] theorem State.afterDraw_st : (s.afterDraw).st = s.st := rfl
@[simp] theorem State.afterDraw_fb : (s.afterDraw).fb = s.fb := rfl
@[simp] theorem State.afterDraw_key : (s.afterDraw).key = s.key := rfl
@[simp] theorem State.afterDraw_wait : (s.afterDraw).wait = s.wait := rfl
@[simp] theorem State.afterDraw_beeping : (s.afterDraw).beeping = s.beeping := rfl
@[simp] theorem State.afterDraw_fault : (s.afterDraw).fault = s.fault := rfl
@[simp] theorem State.afterDraw_mem : (s.afterDraw).mem = s.mem := rfl
@[simp] theorem State.afterDraw_events : (s.afterDraw).events = s.events := rfl
@[simp] theorem State.afterDraw_params : (s.afterDraw).params = s.params := rfl
@[simp] theorem State.afterDraw_draws : (s.afterDraw).draws = s.draws + 1 := rfl
@[simp] theorem State.afterDraw_cyclesLeft : (s.afterDraw).cyclesLeft = s.cyclesLeft := rfl
@[simp] theorem State.afterDraw_script : (s.afterDraw).script = s.script := rfl

/-! ### `decrementTimers` -/

@[simp] theorem State.decrementTimers_v : (s.decrementTimers).v = s.v := rfl
@[simp] theorem State.decrementTimers_index : (s.decrementTimers).index = s.index := rfl
@[simp] theorem State.decrementTimers_pc : (s.decrementTimers).pc = s.pc := rfl
@[simp] theorem State.decrementTimers_stack : (s.decrementTimers).stack = s.stack := rfl
@[simp] theorem State.decrementTimers_dt : (s.decrementTimers).dt = countDown s.dt := rfl
@[simp] theorem State.decrementTimers_st : (s.decrementTimers).st = countDown s.st := rfl
@[simp] theorem State.decrementTimers_fb : (s.decrementTimers).fb = s.fb := rfl
@[simp] theorem State.decrementTimers_key : (s.decrementTimers).key = s.key := rfl
@[simp] theorem State.decrementTimers_wait : (s.decrementTimers).wait = s.wait := rfl
@[simp] theorem State.decrementTimers_beeping : (s.decrementTimers).beeping = s.beeping := rfl
@[simp] theorem State.decrementTimers_fault : (s.decrementTimers).fault = s.fault := rfl
@[simp] theorem State.decrementTimers_mem : (s.decrementTimers).mem = s.mem := rfl
@[simp] theorem State.decrementTimers_events : (s.decrementTimers).events = s.events := rfl
@[simp] theorem State.decrementTimers_params : (s.decrementTimers).params = s.params := rfl
@[simp] theorem State.decrementTimers_draws : (s.decrementTimers).draws = s.draws := rfl
@[simp] theorem State.decrementTimers_cyclesLeft : (s.decrementTimers).cyclesLeft = s.cyclesLeft := rfl
@[simp] theorem State.decrementTimers_script : (s.decrementTimers).script = s.script := rfl

/-! ### `withCycles` -/

@[simp] theorem State.withCycles_v (n : Nat) : (s.withCycles n).v = s.v := rfl
@[simp] theorem State.withCycles_index (n : Nat) : (s.withCycles n).index = s.index := rfl
@[simp] theorem State.withCycles_pc (n : Nat) : (s.withCycles n).pc = s.pc := rfl
@[simp] theorem State.withCycles_stack (n : Nat) : (s.withCycles n).stack = s.stack := rfl
@[simp] theorem State.withCycles_dt (n : Nat) : (s.withCycles n).dt = s.dt := rfl
@[simp] theorem State.withCycles_st (n : Nat) : (s.withCycles n).st = s.st := rfl
@[simp] theorem State.withCycles_fb (n : Nat) : (s.withCycles n).fb = s.fb := rfl
@[simp] theorem State.withCycles_key (n : Nat) : (s.withCycles n).key = s.key := rfl
@[simp] theorem State.withCycles_wait (n : Nat) : (s.withCycles n).wait = s.wait := rfl
@[simp] theorem State.withCycles_beeping (n : Nat) : (s.withCycles n).beeping = s.beeping := rfl
@[simp] theorem State.withCycles_fault (n : Nat) : (s.withCycles n).fault = s.fault := rfl
@[simp] theorem State.withCycles_mem (n : Nat) : (s.withCycles n).mem = s.mem := rfl
@[simp] theorem State.withCycles_events (n : Nat) : (s.withCycles n).events = s.events := rfl
@[simp] theorem State.withCycles_params (n : Nat) : (s.withCycles n).params = s.params := rfl
@[simp] theorem State.withCycles_draws (n : Nat) : (s.withCycles n).draws = s.draws := rfl
@[simp] theorem State.withCycles_cyclesLeft (n : Nat) : (s.withCycles n).cyclesLeft = n := rfl
@[simp] theorem State.withCycles_script (n : Nat) : (s.withCycles n).script = s.script := rfl

/-! ### `writeBeeping` -/

@[simp] theorem State.writeBeeping_v (b : Bool) : (s.writeBeeping b).v = s.v := rfl
@[simp] theorem State.writeBeeping_index (b : Bool) : (s.writeBeeping b).index = s.index := rfl
@[simp] theorem State.writeBeeping_pc (b : Bool) : (s.writeBeeping b).pc = s.pc := rfl
@[simp] theorem State.writeBeeping_stack (b : Bool) : (s.writeBeeping b).stack = s.stack := rfl
@[simp] theorem State.writeBeeping_dt (b : Bool) : (s.writeBeeping b).dt = s.dt := rfl
@[simp] theorem State.writeBeeping_st (b : Bool) : (s.writeBeeping b).st = s.st := rfl
@[simp] theorem State.writeBeeping_fb (b : Bool) : (s.writeBeeping b).fb = s.fb := rfl
@[simp] theorem State.writeBeeping_key (b : Bool) : (s.writeBeeping b).key = s.key := rfl
@[simp] theorem State.writeBeeping_wait (b : Bool) : (s.writeBeeping b).wait = s.wait := rfl
@[simp] theorem State.writeBeeping_beeping (b : Bool) : (s.writeBeeping b).beeping = b := rfl
@[simp] theorem State.writeBeeping_fault (b : Bool) : (s.writeBeeping b).fault = s.fault := rfl
@[simp] theorem State.writeBeeping_mem (b : Bool) : (s.writeBeeping b).mem = s.mem := rfl
@[simp] theorem State.writeBeeping_events (b : Bool) : (s.writeBeeping b).events = s.events := rfl
@[simp] theorem State.writeBeeping_params (b : Bool) : (s.writeBeeping b).params = s.params := rfl
@[simp] theorem State.writeBeeping_draws (b : Bool) : (s.writeBeeping b).draws = s.draws := rfl
@[simp] theorem State.writeBeeping_cyclesLeft (b : Bool) : (s.writeBeeping b).cyclesLeft = s.cyclesLeft := rfl
@[simp] theorem State.writeBeeping_script (b : Bool) : (s.writeBeeping b).script = s.script := rfl

/-! ### `beepEdge`, which writes only `beeping` and `events` -/

@[simp] theorem State.beepEdge_v : s.beepEdge.v = s.v := by unfold State.beepEdge; split_ifs <;> rfl
@[simp] theorem State.beepEdge_index : s.beepEdge.index = s.index := by unfold State.beepEdge; split_ifs <;> rfl
@[simp] theorem State.beepEdge_pc : s.beepEdge.pc = s.pc := by unfold State.beepEdge; split_ifs <;> rfl
@[simp] theorem State.beepEdge_stack : s.beepEdge.stack = s.stack := by unfold State.beepEdge; split_ifs <;> rfl
@[simp] theorem State.beepEdge_dt : s.beepEdge.dt = s.dt := by unfold State.beepEdge; split_ifs <;> rfl
@[simp] theorem State.beepEdge_st : s.beepEdge.st = s.st := by unfold State.beepEdge; split_ifs <;> rfl
@[simp] theorem State.beepEdge_fb : s.beepEdge.fb = s.fb := by unfold State.beepEdge; split_ifs <;> rfl
@[simp] theorem State.beepEdge_key : s.beepEdge.key = s.key := by unfold State.beepEdge; split_ifs <;> rfl
@[simp] theorem State.beepEdge_wait : s.beepEdge.wait = s.wait := by unfold State.beepEdge; split_ifs <;> rfl
@[simp] theorem State.beepEdge_fault : s.beepEdge.fault = s.fault := by unfold State.beepEdge; split_ifs <;> rfl
@[simp] theorem State.beepEdge_mem : s.beepEdge.mem = s.mem := by unfold State.beepEdge; split_ifs <;> rfl
@[simp] theorem State.beepEdge_params : s.beepEdge.params = s.params := by unfold State.beepEdge; split_ifs <;> rfl
@[simp] theorem State.beepEdge_draws : s.beepEdge.draws = s.draws := by unfold State.beepEdge; split_ifs <;> rfl
@[simp] theorem State.beepEdge_cyclesLeft : s.beepEdge.cyclesLeft = s.cyclesLeft := by unfold State.beepEdge; split_ifs <;> rfl
@[simp] theorem State.beepEdge_script : s.beepEdge.script = s.script := by unfold State.beepEdge; split_ifs <;> rfl

end Sys2Proof.Machine
end

