-- ==== Sys2Proof/Laws/Ops.lean ====
section
/-! SUPPORT. The shared operations on registers, the stack and checked accesses: what each does, said once. -/

namespace Sys2Proof.Machine

/-! ### Registers -/

/-- A register write writes its register and no other. -/
@[simp] theorem State.readV_writeV (s : State) (x k : Reg) (b : Byte) :
    (s.writeV x b).readV k = if k = x then b else s.readV k := by
  by_cases h : k = x
  · subst h; simp [State.readV]
  · have h' : x.val ≠ k.val := fun e => h (Fin.ext e.symm)
    simp [State.readV, h, Vector.getElem_set_ne _ _ h']

/-- The flag write writes 1 or 0 to `VF` and no other register. -/
@[simp] theorem State.readV_writeFlag (s : State) (c : Bool) (k : Reg) :
    (s.writeFlag c).readV k = if k = VF then (if c then 1 else 0) else s.readV k :=
  State.readV_writeV s VF k _

/-- A register read depends on the registers alone. -/
theorem State.readV_congr {s t : State} (h : t.v = s.v) (k : Reg) : t.readV k = s.readV k := by
  simp [State.readV, h]

@[simp] theorem State.readV_advance (s : State) (k : Reg) : s.advance.readV k = s.readV k := rfl

@[simp] theorem State.readV_afterDraw (s : State) (k : Reg) : s.afterDraw.readV k = s.readV k := rfl

@[simp] theorem State.readV_applyDrawing (s : State) (d : Drawing) (k : Reg) :
    (s.applyDrawing d).readV k = s.readV k := rfl

@[simp] theorem State.readV_writeIndex (s : State) (a : Word) (k : Reg) : (s.writeIndex a).readV k = s.readV k := rfl

/-- The block load gives `V0` to `Vx` the bytes at `I` on and keeps the other registers. -/
theorem loadBlock_getElem (s : State) (x k : Reg) :
    (loadBlock s x)[k] = if k ≤ x then s.readByte (s.index.toNat + k.val) else s.readV k := by
  simp [loadBlock, effectiveAddr, State.readV]

/-- The block stored has `x + 1` bytes. -/
@[simp] theorem regBlock_length (s : State) (x : Reg) : (regBlock s x).length = x.val + 1 := by
  simp [regBlock]

/-- Its byte `k` is `V[k]`. -/
theorem regBlock_getD (s : State) (x k : Reg) (h : k ≤ x) : (regBlock s x).getD k.val 0 = s.readV k := by
  have hk : k.val < x.val + 1 := Nat.lt_succ_of_le h
  simp [regBlock, State.readV, hk]

/-- Three digits are stored. -/
theorem bcdDigits_length (b : Byte) : (bcdDigits b).length = 3 := rfl

/-- Digit `k`, counted from the hundreds. -/
theorem bcdDigits_getD (b : Byte) (k : Nat) (h : k < 3) :
    ((bcdDigits b).getD k 0).toNat = b.toNat / 10 ^ (2 - k) % 10 := by
  have := b.isLt
  interval_cases k <;> simp [bcdDigits] <;> omega

/-- The key test is the comparison of the latched key with the whole of `Vx`. -/
theorem keyMatches_eq (s : State) (x : Reg) :
    keyMatches s x = (s.key.map Fin.val == some (s.readV x).toNat) := by
  unfold keyMatches; cases s.key <;> simp

/-! ### Checked accesses -/

theorem inRange_iff (addr n : Nat) : inRange addr n = true ↔ addr + n ≤ 4096 := by simp [inRange]

/-- An access in range is carried out. -/
theorem State.withAccess_inRange (s : State) {addr : Word} {n : Nat} (kind : RangeKind) (act : State)
    (h : addr.toNat + n ≤ 4096) : s.withAccess addr n kind act = act := by
  simp [State.withAccess, inRange, h]

/-- An access out of range is the fault entry alone. -/
theorem State.withAccess_outOfRange (s : State) {addr : Word} {n : Nat} (kind : RangeKind) (act : State)
    (h : 4096 < addr.toNat + n) : s.withAccess addr n kind act = s.raise (.outOfRange addr n kind) := by
  have h' : ¬ addr.toNat + n ≤ 4096 := by omega
  simp [State.withAccess, inRange, h']

/-- Either way. -/
theorem State.withAccess_cases (s : State) (addr : Word) (n : Nat) (kind : RangeKind) (act : State) :
    (addr.toNat + n ≤ 4096 ∧ s.withAccess addr n kind act = act) ∨
    (4096 < addr.toNat + n ∧ s.withAccess addr n kind act = s.raise (.outOfRange addr n kind)) := by
  by_cases h : addr.toNat + n ≤ 4096
  · exact .inl ⟨h, s.withAccess_inRange kind act h⟩
  · exact .inr ⟨by omega, s.withAccess_outOfRange kind act (by omega)⟩

/-- The bytes of a checked read. -/
@[simp] theorem Memory.readBytes_length (m : Memory) (addr n : Nat) : (m.readBytes addr n).length = n := by
  simp [Memory.readBytes]

theorem Memory.readBytes_getD (m : Memory) (addr n k : Nat) (h : k < n) :
    (m.readBytes addr n).getD k 0 = m.read (addr + k) := by
  simp [Memory.readBytes, h]

/-! ### The call stack -/

theorem State.pop_nil {s : State} (h : s.stack = []) : s.pop = none := by simp [State.pop, h]

theorem State.pop_append {s : State} {below : List Word} {a : Word} (h : s.stack = below ++ [a]) :
    s.pop = some (a, { s with stack := below }) := by simp [State.pop, h]

/-- A stack is empty or has a top. -/
theorem State.stack_cases (s : State) : s.stack = [] ∨ ∃ below a, s.stack = below ++ [a] := by
  rcases List.eq_nil_or_concat s.stack with h | ⟨below, a, h⟩
  · exact .inl h
  · exact .inr ⟨below, a, by simpa using h⟩

end Sys2Proof.Machine
end

