-- ==== Sys2Proof/Laws/Exec.lean ====
section
/-! SUPPORT. The instructions whose meaning has more than one outcome: every outcome each can have, said once. The
meaning of every other instruction is one `next` state, by unfolding. -/

namespace Sys2Proof.Machine

/-- Two next states are the same state. -/
theorem next_inj {s t : State} (h : (Host.Outcome.next s : Host.Outcome State Fault Refusal) = .next t) : t = s := by
  injection h with h
  exact h.symm

/-- What `DRW` draws. -/
def drawingOf (x y : Reg) (n : Fin 16) (s : State) : Drawing :=
  flipCells s.fb (spriteCells (spriteOrigin s x y).1 (spriteOrigin s x y).2 (s.mem.readBytes s.index.toNat n.val))

theorem exec_drw_draws {x y : Reg} {n : Fin 16} {s : State} (h : n.val = 0 ∨ s.index.toNat + n.val ≤ 4096) :
    exec (.drw x y n) s =
      .next ((s.applyDrawing (drawingOf x y n s)).writeFlag (drawingOf x y n s).collision).advance := by
  simp only [exec, execDrw]
  by_cases h0 : n = 0
  · rw [if_pos h0]; rfl
  · rw [if_neg h0, State.withAccess_inRange]
    · rfl
    · exact h.resolve_left fun e => h0 (Fin.ext e)

theorem exec_drw_faults {x y : Reg} {n : Fin 16} {s : State} (h0 : 0 < n.val) (h : 4096 < s.index.toNat + n.val) :
    exec (.drw x y n) s = .next (s.raise (.outOfRange s.index n.val .spriteRead)) := by
  have hn : n ≠ 0 := by rintro rfl; simp at h0
  simp only [exec, execDrw, if_neg hn]
  rw [State.withAccess_outOfRange _ _ _ h]

theorem exec_drw_cases (x y : Reg) (n : Fin 16) (s : State) :
    exec (.drw x y n) s =
      .next ((s.applyDrawing (drawingOf x y n s)).writeFlag (drawingOf x y n s).collision).advance ∨
    exec (.drw x y n) s = .next (s.raise (.outOfRange s.index n.val .spriteRead)) := by
  by_cases h : n.val = 0 ∨ s.index.toNat + n.val ≤ 4096
  · exact .inl (exec_drw_draws h)
  · exact .inr (exec_drw_faults (by omega) (by omega))

theorem exec_ret_cases (s : State) :
    (s.stack = [] ∧ exec .ret s = .next (s.raise .stackUnderflow)) ∨
    ∃ below a, s.stack = below ++ [a] ∧ exec .ret s = .next ({ s with stack := below }.jumpTo (a + 2)) := by
  rcases s.stack_cases with h | ⟨below, a, h⟩
  · exact .inl ⟨h, by simp only [exec, execRet, State.pop_nil h]⟩
  · exact .inr ⟨below, a, h, by simp only [exec, execRet, State.pop_append h]⟩

theorem exec_call_cases (nnn : Addr) (s : State) :
    (s.params.stackLimit = some s.stack.length ∧ exec (.call nnn) s = .next (s.raise .stackOverflow)) ∨
    (s.params.stackLimit ≠ some s.stack.length ∧
      exec (.call nnn) s = .next ((s.push s.pc).jumpTo (addrOperand nnn))) := by
  by_cases h : s.params.stackLimit = some s.stack.length
  · exact .inl ⟨h, by simp [exec, execCall, State.stackFull, h]⟩
  · exact .inr ⟨h, by simp [exec, execCall, State.stackFull, h]⟩

theorem exec_ldB_cases (x : Reg) (s : State) :
    (s.index.toNat + 3 ≤ 4096 ∧
      exec (.ldB x) s = .next (s.writeBytes s.index.toNat (bcdDigits (s.readV x))).advance) ∨
    (4096 < s.index.toNat + 3 ∧ exec (.ldB x) s = .next (s.raise (.outOfRange s.index 3 .bcdWrite))) :=
  (s.withAccess_cases s.index 3 .bcdWrite (s.writeBytes s.index.toNat (bcdDigits (s.readV x))).advance).imp
    (fun h => ⟨h.1, congrArg _ h.2⟩) fun h => ⟨h.1, congrArg _ h.2⟩

theorem exec_ldMemVx_cases (x : Reg) (s : State) :
    (s.index.toNat + (x.val + 1) ≤ 4096 ∧
      exec (.ldMemVx x) s = .next (s.writeBytes s.index.toNat (regBlock s x)).advance) ∨
    (4096 < s.index.toNat + (x.val + 1) ∧
      exec (.ldMemVx x) s = .next (s.raise (.outOfRange s.index (x.val + 1) .storeRegs))) :=
  (s.withAccess_cases s.index (x.val + 1) .storeRegs (s.writeBytes s.index.toNat (regBlock s x)).advance).imp
    (fun h => ⟨h.1, congrArg _ h.2⟩) fun h => ⟨h.1, congrArg _ h.2⟩

theorem exec_ldVxMem_cases (x : Reg) (s : State) :
    (s.index.toNat + (x.val + 1) ≤ 4096 ∧
      exec (.ldVxMem x) s = .next { s with v := loadBlock s x }.advance) ∨
    (4096 < s.index.toNat + (x.val + 1) ∧
      exec (.ldVxMem x) s = .next (s.raise (.outOfRange s.index (x.val + 1) .loadRegs))) :=
  (s.withAccess_cases s.index (x.val + 1) .loadRegs { s with v := loadBlock s x }.advance).imp
    (fun h => ⟨h.1, congrArg _ h.2⟩) fun h => ⟨h.1, congrArg _ h.2⟩

end Sys2Proof.Machine
end

