-- ==== Sys2Proof/Laws/PerInstr.lean ====
section
/-! SUPPORT. Laws made per instruction, one lemma per constructor. `MatchesItsRow`: the encoded word of an instruction
selects the instruction's own row of the decode table (R45). -/

namespace Sys2Proof.Laws.MatchesItsRow

/-- The encoded word selects the instruction's row. -/
def Statement (i : Instr) : Prop := matchesRow (encode i) (tableRow i) = true

theorem cls : Statement (.cls) := rfl
theorem ret : Statement (.ret) := rfl
theorem jp (nnn : Addr) : Statement (.jp nnn) := matchesRow_wordNNN _ nnn
theorem call (nnn : Addr) : Statement (.call nnn) := matchesRow_wordNNN _ nnn
theorem seImm (x : Reg) (nn : Byte) : Statement (.seImm x nn) := matchesRow_wordXNN _ x nn
theorem sneImm (x : Reg) (nn : Byte) : Statement (.sneImm x nn) := matchesRow_wordXNN _ x nn
theorem seReg (x y : Reg) : Statement (.seReg x y) := matchesRow_wordXYS _ x y _
theorem ldImm (x : Reg) (nn : Byte) : Statement (.ldImm x nn) := matchesRow_wordXNN _ x nn
theorem addImm (x : Reg) (nn : Byte) : Statement (.addImm x nn) := matchesRow_wordXNN _ x nn
theorem ldReg (x y : Reg) : Statement (.ldReg x y) := matchesRow_wordXYS _ x y _
theorem and (x y : Reg) : Statement (.and x y) := matchesRow_wordXYS _ x y _
theorem xor (x y : Reg) : Statement (.xor x y) := matchesRow_wordXYS _ x y _
theorem addReg (x y : Reg) : Statement (.addReg x y) := matchesRow_wordXYS _ x y _
theorem sub (x y : Reg) : Statement (.sub x y) := matchesRow_wordXYS _ x y _
theorem shr (x y : Reg) : Statement (.shr x y) := matchesRow_wordXYS _ x y _
theorem subn (x y : Reg) : Statement (.subn x y) := matchesRow_wordXYS _ x y _
theorem shl (x y : Reg) : Statement (.shl x y) := matchesRow_wordXYS _ x y _
theorem sneReg (x y : Reg) : Statement (.sneReg x y) := matchesRow_wordXYS _ x y _
theorem ldI (nnn : Addr) : Statement (.ldI nnn) := matchesRow_wordNNN _ nnn
theorem rnd (x : Reg) (nn : Byte) : Statement (.rnd x nn) := matchesRow_wordXNN _ x nn
theorem drw (x y : Reg) (n : Fin 16) : Statement (.drw x y n) := matchesRow_wordXYN _ x y _
theorem skp (x : Reg) : Statement (.skp x) := matchesRow_wordXSS _ x _
theorem sknp (x : Reg) : Statement (.sknp x) := matchesRow_wordXSS _ x _
theorem ldVxDt (x : Reg) : Statement (.ldVxDt x) := matchesRow_wordXSS _ x _
theorem ldVxK (x : Reg) : Statement (.ldVxK x) := matchesRow_wordXSS _ x _
theorem ldDtVx (x : Reg) : Statement (.ldDtVx x) := matchesRow_wordXSS _ x _
theorem ldStVx (x : Reg) : Statement (.ldStVx x) := matchesRow_wordXSS _ x _
theorem addI (x : Reg) : Statement (.addI x) := matchesRow_wordXSS _ x _
theorem ldF (x : Reg) : Statement (.ldF x) := matchesRow_wordXSS _ x _
theorem ldB (x : Reg) : Statement (.ldB x) := matchesRow_wordXSS _ x _
theorem ldMemVx (x : Reg) : Statement (.ldMemVx x) := matchesRow_wordXSS _ x _
theorem ldVxMem (x : Reg) : Statement (.ldVxMem x) := matchesRow_wordXSS _ x _

end Sys2Proof.Laws.MatchesItsRow
end

