-- ==== Sys2Proof/Laws/Step.lean ====
section
/-! SUPPORT. What a cycle and a step can do, said once: the inversion lemmas later proofs cite. -/

namespace Sys2Proof.Machine

/-- A decode failure names the word that failed. -/
theorem decodeWord_error {op : Word} {e : DecodeError} (h : decodeWord op = .error e) : e = .decodeFailure op := by
  unfold decodeWord at h
  repeat' split at h
  all_goals first | (injection h with h; exact h.symm) | injection h

/-- The fetch of a `pc` that leaves two bytes of memory. -/
theorem fetch_inRange {s : State} (h : s.pc.toNat + 2 ≤ 4096) :
    fetch s = some (s.readByte s.pc.toNat, s.readByte (s.pc.toNat + 1)) := by
  simp [fetch, inRange, h]

/-- The fetch of any other `pc`. -/
theorem fetch_outOfRange {s : State} (h : 4096 < s.pc.toNat + 2) : fetch s = none := by
  have h' : ¬ s.pc.toNat + 2 ≤ 4096 := by omega
  simp [fetch, inRange, h']

/-- A cycle is a fetch fault, a decode failure, or the instruction at `pc`. -/
theorem cycle_cases (s : State) :
    (4096 < s.pc.toNat + 2 ∧ cycle s = .next (s.raise (.outOfRange s.pc 2 .fetch))) ∨
    (s.pc.toNat + 2 ≤ 4096 ∧ ∃ op : Word, s.readByte s.pc.toNat ++ s.readByte (s.pc.toNat + 1) = op ∧
      decodeWord op = .error (.decodeFailure op) ∧ cycle s = .next (s.raise (.decodeFailure op))) ∨
    (s.pc.toNat + 2 ≤ 4096 ∧ ∃ i, decode (s.readByte s.pc.toNat) (s.readByte (s.pc.toNat + 1)) = .ok i ∧
      cycle s = exec i s) := by
  by_cases h : s.pc.toNat + 2 ≤ 4096
  · refine .inr ?_
    cases hd : decode (s.readByte s.pc.toNat) (s.readByte (s.pc.toNat + 1)) with
    | ok i => exact .inr ⟨h, i, rfl, by simp only [cycle, fetch_inRange h, hd]⟩
    | error e =>
      have he := decodeWord_error hd
      subst he
      exact .inl ⟨h, _, rfl, hd, by simp only [cycle, fetch_inRange h, hd]⟩
  · exact .inl ⟨by omega, by simp only [cycle, fetch_outOfRange (by omega : 4096 < s.pc.toNat + 2)]⟩

/-- A turn of the tick's loop that answers a next state is a cycle that does, and what follows a cycle. -/
theorem cycleSlot_next {s t : State} (h : cycleSlot s = .next t) : ∃ u, cycle s = .next u ∧ t = u.afterCycle := by
  unfold cycleSlot at h
  split at h
  · next u hu => exact ⟨u, hu, by injection h with h; exact h.symm⟩
  · cases h
  · cases h

/-- A step that answers a next state comes from a core that has not faulted, and is a cycle of the tick in progress, a
press, a release, a tick that runs no cycle, or a tick with its first cycle. -/
theorem step_cases {s t : State} (h : step s = .next t) :
    s.fault = none ∧
    ((0 < s.cyclesLeft ∧ ∃ u, cycle s = .next u ∧ t = u.afterCycle) ∨
     (s.cyclesLeft = 0 ∧ ∃ k, s.takeOp.1 = .press k ∧ t = s.takeOp.2.press k) ∨
     (s.cyclesLeft = 0 ∧ s.takeOp.1 = .release ∧ t = s.takeOp.2.release) ∨
     (s.cyclesLeft = 0 ∧ s.takeOp.1 = .tick ∧ (s.takeOp.2.wait.isSome ∨ s.ipt = 0) ∧
        t = s.takeOp.2.decrementTimers) ∨
     (s.cyclesLeft = 0 ∧ s.takeOp.1 = .tick ∧ s.takeOp.2.wait = none ∧ 0 < s.ipt ∧
        ∃ u, cycle (s.takeOp.2.decrementTimers.withCycles s.ipt) = .next u ∧ t = u.afterCycle)) := by
  unfold step at h
  split at h
  · cases h
  next hf =>
  refine ⟨hf, ?_⟩
  unfold move at h
  split at h
  · next hc =>
    have hp : s.takeOp.2.params = s.params := by unfold State.takeOp; split <;> rfl
    unfold betweenTicks at h
    split at h
    · next ho =>
      have hi : s.takeOp.2.decrementTimers.ipt = s.ipt := by simp [State.ipt, hp]
      simp only [startTick, State.decrementTimers_wait, hi] at h
      by_cases hw : (s.takeOp.2.wait.isSome || s.ipt == 0) = true
      · rw [if_pos hw] at h
        exact .inr (.inr (.inr (.inl ⟨hc, ho, by simpa using hw, by injection h with h; exact h.symm⟩)))
      · rw [if_neg hw] at h
        simp only [Bool.or_eq_true, not_or] at hw
        exact .inr (.inr (.inr (.inr ⟨hc, ho, by simpa using hw.1, Nat.pos_of_ne_zero (by simpa using hw.2),
          cycleSlot_next h⟩)))
    · next k ho => exact .inr (.inl ⟨hc, k, ho, by injection h with h; exact h.symm⟩)
    · next ho => exact .inr (.inr (.inl ⟨hc, ho, by injection h with h; exact h.symm⟩))
  · next hc => exact .inl ⟨by omega, cycleSlot_next h⟩

/-- What the host's next operation leaves of the state: all but the script. -/
theorem State.takeOp_snd (s : State) : s.takeOp.2 = { s with script := s.script.tail } := by
  unfold State.takeOp
  split
  · next h => cases s; simp_all
  · next h => simp [h]

/-- A cycle at bytes that decode runs the instruction. -/
theorem cycle_decoded {s : State} {i : Instr} (h : s.pc.toNat + 2 ≤ 4096)
    (hd : decode (s.readByte s.pc.toNat) (s.readByte (s.pc.toNat + 1)) = .ok i) : cycle s = exec i s := by
  simp only [cycle, fetch_inRange h, hd]

/-- A cycle that answers a next state is followed by what follows a cycle. -/
theorem cycleSlot_of_cycle {s t : State} (h : cycle s = .next t) : cycleSlot s = .next t.afterCycle := by
  simp [cycleSlot, h]

/-- A timer counts down to zero and stays there (R101). -/
theorem countDown_toNat (b : Byte) : (countDown b).toNat = b.toNat - 1 := by revert b; decide

@[simp] theorem State.afterCycle_fault (s : State) : s.afterCycle.fault = s.fault := by
  unfold State.afterCycle; split_ifs <;> simp

@[simp] theorem State.press_fault (s : State) (k : Key) : (s.press k).fault = s.fault := by
  unfold State.press; split <;> rfl

end Sys2Proof.Machine
end

