-- ==== Sys2Proof/Tests/Slice0.lean ====
section
/-! SUPPORT. The model's own tests. Every expected value is a vector of spec/95_test_vectors.md (named V<file>.<n>, T<n>,
F<n>, P<n>), an example of the instruction's rule, or worked out by hand from its pseudocode, as the comment says. At the
end, for every obligation with hypotheses, a witness that something meets them. -/

namespace Sys2Proof.Tests

open Sys2Proof.Machine

/-! ### Helpers -/

/-- Whether an outcome is a next state of which `p` holds. -/
def gives (o : Host.Outcome State Fault Refusal) (p : State → Bool) : Bool :=
  match o with
  | .next t => p t
  | .fault _ => false
  | .refused _ => false

theorem gives_next {o : Host.Outcome State Fault Refusal} {p : State → Bool} (h : gives o p = true) :
    ∃ t, o = .next t ∧ p t = true := by
  cases o with
  | next t => exact ⟨t, rfl, h⟩
  | fault _ => cases h
  | refused _ => cases h

/-- One cycle (the "step" of 95_test_vectors.md section 0) on `s` with `w` at its program counter. -/
def runs (w : Word) (s : State) (p : State → Bool) : Bool := gives (cycle (s.storeFetchWord w)) p

/-- The reset state with `V0` and on loaded from a list. -/
def withRegs (bytes : List Byte) : State :=
  { State.reset with v := Vector.ofFn fun k => bytes.getD k.val 0 }

/-- The reset state with two registers written. -/
def withTwo (x : Reg) (a : Byte) (y : Reg) (b : Byte) : State := (State.reset.writeV x a).writeV y b

/-- A state with bytes put in memory. -/
def withBytes (s : State) (addr : Nat) (bytes : List Byte) : State := s.writeBytes addr bytes

/-- Memory from `addr` on holds these bytes. -/
def holds (s : State) (addr : Nat) (bytes : List Byte) : Bool :=
  s.mem.readBytes addr bytes.length == bytes

/-- The fault of a state, and where it happened. -/
def faulted (s : State) (pc : Word) (c : FaultCause) : Bool := s.fault == some { pc := pc, cause := c }

/-! ### WellFormed: an ill-formed term for each check, refused -/

theorem test_clock_below_60_refused : Params.wellFormed { clockHz := 59, stackLimit := none } = false := by decide
theorem test_zero_stack_limit_refused : Params.wellFormed { clockHz := 700, stackLimit := some 0 } = false := by decide
theorem test_short_font_refused : fontWellFormed [0xF0] = false := by decide
theorem test_long_rom_refused : romWellFormed (List.replicate 3585 0) = false := by
  rw [romWellFormed, List.length_replicate]; decide
theorem test_default_params_accepted :
    Params.wellFormed State.reset.params = true ∧ fontWellFormed Config.fontTable = true ∧
      romWellFormed [] = true := by decide
/-- No instruction term is ill formed: the operand types hold nothing else (R43). The check at the largest operands. -/
theorem test_largest_operands_accepted :
    (Instr.jp 0xFFF).wellFormed = true ∧ (Instr.drw 15 15 15).wellFormed = true ∧
      (Instr.rnd 15 0xFF).wellFormed = true := by decide

/-! ### Decoding: words written out from R45, the vectors of section 2 -/

theorem test_decode_fixed : decode 0x00 0xE0 = .ok .cls ∧ decode 0x00 0xEE = .ok .ret := by decide
theorem test_decode_nnn :
    decode 0x1A 0xBC = .ok (.jp 0xABC) ∧ decode 0x2A 0xBC = .ok (.call 0xABC) ∧
      decode 0xA1 0x23 = .ok (.ldI 0x123) := by decide
theorem test_decode_xnn :
    decode 0x3A 0x42 = .ok (.seImm 10 0x42) ∧ decode 0x4A 0x42 = .ok (.sneImm 10 0x42) ∧
      decode 0x6A 0x42 = .ok (.ldImm 10 0x42) ∧ decode 0x7A 0x42 = .ok (.addImm 10 0x42) ∧
      decode 0xC5 0x0F = .ok (.rnd 5 0x0F) := by decide
theorem test_decode_xy :
    decode 0x5A 0xB0 = .ok (.seReg 10 11) ∧ decode 0x9A 0xB0 = .ok (.sneReg 10 11) ∧
      decode 0x8A 0xB0 = .ok (.ldReg 10 11) ∧ decode 0x8A 0xB2 = .ok (.and 10 11) ∧
      decode 0x8A 0xB3 = .ok (.xor 10 11) ∧ decode 0x8A 0xB4 = .ok (.addReg 10 11) := by decide
theorem test_decode_xy_more :
    decode 0x8A 0xB5 = .ok (.sub 10 11) ∧ decode 0x8A 0xB6 = .ok (.shr 10 11) ∧
      decode 0x8A 0xB7 = .ok (.subn 10 11) ∧ decode 0x8A 0xBE = .ok (.shl 10 11) ∧
      decode 0xD1 0x25 = .ok (.drw 1 2 5) ∧ decode 0xD1 0x20 = .ok (.drw 1 2 0) := by decide
theorem test_decode_key_and_timer :
    decode 0xE5 0x9E = .ok (.skp 5) ∧ decode 0xE5 0xA1 = .ok (.sknp 5) ∧ decode 0xF5 0x07 = .ok (.ldVxDt 5) ∧
      decode 0xF5 0x0A = .ok (.ldVxK 5) ∧ decode 0xF5 0x15 = .ok (.ldDtVx 5) ∧
      decode 0xF5 0x18 = .ok (.ldStVx 5) := by decide
theorem test_decode_index :
    decode 0xF5 0x1E = .ok (.addI 5) ∧ decode 0xF5 0x29 = .ok (.ldF 5) ∧ decode 0xF5 0x33 = .ok (.ldB 5) ∧
      decode 0xF5 0x55 = .ok (.ldMemVx 5) ∧ decode 0xF5 0x65 = .ok (.ldVxMem 5) := by decide
theorem test_decode_failures :
    [0x0000, 0x00E1, 0x00FF, 0x0123, 0x5AB1, 0x8AB1, 0x8AB8, 0x8ABF, 0x9AB1, 0xB123].all (fun w =>
      decodeWord w == .error (.decodeFailure w)) = true ∧
    [0xE59F, 0xE5A0, 0xE500, 0xF500, 0xF508, 0xF530, 0xF575, 0xF5FF].all (fun w =>
      decodeWord w == .error (.decodeFailure w)) = true := by decide
theorem test_decodeTableWord :
    decodeTableWord 16 0x8AB4 = some (.addReg 10 11) ∧ decodeTableWord 16 0x8AB1 = none := by decide

/-! ### Display -/

/-- V40.1: the lit cells are cleared in row-major order. -/
theorem test_cls : runs 0x00E0 { State.reset with fb := (State.reset.fb.set 3 4 true).set 10 0 true } (fun t =>
    litCells t.fb == [] && t.pc == 0x202 && t.events == [.clearPixel 10 0, .clearPixel 3 4]) = true := by
  decide +kernel

/-- V40.5: drawing glyph 0 over itself collides and clears every cell, high bit first, rows top to bottom. -/
theorem test_drw_collides :
    gives (cycle ({ State.reset with index := 0x050 }.storeFetchWord 0xD015)) (fun s =>
      runs 0xD015 { s with pc := 0x200 } (fun t => litCells t.fb == [] && t.readV 15 == 1 &&
        t.events.drop 14 == [.clearPixel 0 0, .clearPixel 1 0, .clearPixel 2 0, .clearPixel 3 0, .clearPixel 0 1,
          .clearPixel 3 1, .clearPixel 0 2, .clearPixel 3 2, .clearPixel 0 3, .clearPixel 3 3, .clearPixel 0 4,
          .clearPixel 1 4, .clearPixel 2 4, .clearPixel 3 4])) = true := by decide +kernel

/-- V40.3 and V40.7: a sprite is clipped at the right edge, and at the bottom edge. -/
theorem test_drw_clips :
    runs 0xD121 { withBytes (withTwo 1 60 2 0) 0x300 [0xFF] with index := 0x300 } (fun t =>
      t.readV 15 == 0 && t.events == [.drawPixel 60 0, .drawPixel 61 0, .drawPixel 62 0, .drawPixel 63 0]) = true ∧
    runs 0xD122 { withBytes (withTwo 1 0 2 31) 0x300 [0xFF, 0xFF] with index := 0x300 } (fun t =>
      t.events == [.drawPixel 0 31, .drawPixel 1 31, .drawPixel 2 31, .drawPixel 3 31, .drawPixel 4 31,
        .drawPixel 5 31, .drawPixel 6 31, .drawPixel 7 31]) = true := by decide +kernel

/-! ### Control flow -/

/-- V41.6 and V41.7: the last address pushed is popped, and the return resumes after it. -/
theorem test_ret : runs 0x00EE { State.reset with stack := [0x204, 0x300] } (fun t =>
    t.stack == [0x204] && t.pc == 0x302) = true := by decide
/-- V41.8. -/
theorem test_ret_underflow : runs 0x00EE State.reset (fun t =>
    faulted t 0x200 .stackUnderflow && t.pc == 0x200 && t.fault.map (·.cause.code) == some 3) = true := by decide
/-- V41.1. -/
theorem test_jp : runs 0x1234 State.reset (fun t => t.pc == 0x234) = true := by decide
/-- V41.4. -/
theorem test_call : runs 0x2345 State.reset (fun t => t.stack == [0x200] && t.pc == 0x345) = true := by decide
/-- V41.5: a stack at its limit. -/
theorem test_call_overflow :
    runs 0x2345 { State.reset with stack := [0x400], params := { clockHz := 700, stackLimit := some 1 } } (fun t =>
      faulted t 0x200 .stackOverflow && t.stack == [0x400] && t.fault.map (·.cause.code) == some 4) = true := by decide
/-- V41.9 and V41.10. -/
theorem test_seImm : runs 0x3A42 (State.reset.writeV 10 0x42) (·.pc == 0x204) = true ∧
    runs 0x3A42 (State.reset.writeV 10 0x41) (·.pc == 0x202) = true := by decide
/-- V41.11 and V41.12. -/
theorem test_sneImm : runs 0x4A42 (State.reset.writeV 10 0x42) (·.pc == 0x202) = true ∧
    runs 0x4A42 (State.reset.writeV 10 0x41) (·.pc == 0x204) = true := by decide
/-- V41.13 and V41.14. -/
theorem test_seReg : runs 0x5AB0 (withTwo 10 7 11 7) (·.pc == 0x204) = true ∧
    runs 0x5AB0 (withTwo 10 7 11 8) (·.pc == 0x202) = true := by decide
/-- V41.16 and V41.17. -/
theorem test_sneReg : runs 0x9AB0 (withTwo 10 7 11 8) (·.pc == 0x204) = true ∧
    runs 0x9AB0 (withTwo 10 7 11 7) (·.pc == 0x202) = true := by decide

/-! ### Arithmetic and logic -/

/-- V42.1. -/
theorem test_ldImm : runs 0x6A42 State.reset (fun t => t.readV 10 == 0x42 && t.pc == 0x202) = true := by decide
/-- V42.2 and V42.3: the sum wraps and no flag is written. -/
theorem test_addImm : runs 0x7002 (withTwo 0 0xFF 15 0x55) (fun t => t.readV 0 == 1 && t.readV 15 == 0x55) = true ∧
    runs 0x7F01 (State.reset.writeV 15 0xFF) (fun t => t.readV 15 == 0) = true := by decide
/-- V42.4. -/
theorem test_ldReg : runs 0x8AB0 (State.reset.writeV 11 0x12) (fun t => t.readV 10 == 0x12) = true := by decide
/-- V42.5. -/
theorem test_and : runs 0x8AB2 ((withTwo 10 0xF0 11 0x3C).writeV 15 0x77) (fun t =>
    t.readV 10 == 0x30 && t.readV 15 == 0x77) = true := by decide
/-- V42.6. -/
theorem test_xor : runs 0x8AB3 ((withTwo 10 0xF0 11 0x3C).writeV 15 0x77) (fun t =>
    t.readV 10 == 0xCC && t.readV 15 == 0x77) = true := by decide
/-- V42.8 and V42.9. -/
theorem test_addReg : runs 0x8AB4 (withTwo 10 0xFF 11 1) (fun t => t.readV 10 == 0 && t.readV 15 == 1) = true ∧
    runs 0x8AB4 (withTwo 10 0x80 11 0x7F) (fun t => t.readV 10 == 0xFF && t.readV 15 == 0) = true := by decide
/-- V42.12: with `x = F` the flag is written last. -/
theorem test_addReg_vf : runs 0x8FA4 (withTwo 15 0x10 10 0xF0) (fun t => t.readV 15 == 1) = true := by decide
/-- V42.14 and V42.15. -/
theorem test_sub : runs 0x8AB5 (withTwo 10 1 11 2) (fun t => t.readV 10 == 0xFF && t.readV 15 == 0) = true ∧
    runs 0x8AB5 (withTwo 10 5 11 5) (fun t => t.readV 10 == 0 && t.readV 15 == 1) = true := by decide
/-- V42.18: the bit shifted out, and `Vy` ignored. -/
theorem test_shr : runs 0x8AB6 (withTwo 10 5 11 0xFF) (fun t => t.readV 10 == 2 && t.readV 15 == 1) = true := by decide
/-- V42.21: with `x = F` the flag is written first and shifted. -/
theorem test_shr_vf : runs 0x8FB6 (State.reset.writeV 15 3) (fun t => t.readV 15 == 0) = true := by decide
/-- V42.22 and V42.23. -/
theorem test_subn : runs 0x8AB7 (withTwo 10 1 11 2) (fun t => t.readV 10 == 1 && t.readV 15 == 1) = true ∧
    runs 0x8AB7 (withTwo 10 2 11 1) (fun t => t.readV 10 == 0xFF && t.readV 15 == 0) = true := by decide
/-- V42.25. -/
theorem test_shl : runs 0x8ABE (withTwo 10 0x81 11 0) (fun t => t.readV 10 == 2 && t.readV 15 == 1) = true := by decide
/-- V42.27: with `x = F` the flag 1 is shifted to 2. -/
theorem test_shl_vf : runs 0x8FBE (State.reset.writeV 15 0x81) (fun t => t.readV 15 == 2) = true := by decide
/-- V42.29 and V42.30, for every answer of the oracle: the draw is masked with `nn` (rule R72). -/
theorem test_rnd : ∃ t, cycle ((State.reset.writeV 10 0xFF).storeFetchWord 0xCA0F) = .next t ∧
    t.readV 10 = Config.randomByte 0 &&& 0x0F ∧ t.draws = 1 := ⟨_, rfl, rfl, rfl⟩

/-! ### Index register and memory -/

/-- V43.1. -/
theorem test_ldI : runs 0xA123 State.reset (fun t => t.index == 0x123 && t.pc == 0x202) = true := by decide
/-- V43.3 and V43.4: the flag is the 12-bit overflow, and `I` is not masked. -/
theorem test_addI :
    runs 0xF21E { State.reset.writeV 2 3 with index := 0xFFE } (fun t => t.index == 0x1001 && t.readV 15 == 1) = true ∧
    runs 0xF21E { State.reset with index := 0xFFF } (fun t => t.index == 0xFFF && t.readV 15 == 0) = true := by decide
/-- V43.6: with `x = F` the old `VF` is added. -/
theorem test_addI_vf : runs 0xFF1E { State.reset.writeV 15 5 with index := 0x010 } (fun t =>
    t.index == 0x015 && t.readV 15 == 0) = true := by decide
/-- V43.8 and V43.11. -/
theorem test_ldF : runs 0xF029 (State.reset.writeV 0 0x0A) (fun t => t.index == 0x082) = true ∧
    runs 0xF029 (State.reset.writeV 0 0xFF) (fun t => t.index == 0x54B) = true := by decide
/-- V43.12. -/
theorem test_ldB : runs 0xFA33 { State.reset.writeV 10 157 with index := 0x300 } (fun t =>
    holds t 0x300 [1, 5, 7] && t.index == 0x300 && t.pc == 0x202) = true := by decide +kernel
/-- V43.16: nothing is written by a store that reaches past the end. -/
theorem test_ldB_out_of_range : runs 0xFA33 { State.reset.writeV 10 1 with index := 0xFFE } (fun t =>
    faulted t 0x200 (.outOfRange 0xFFE 3 .bcdWrite) && holds t 0xFFE [0, 0] && t.pc == 0x200) = true := by
  decide +kernel
/-- V43.17. -/
theorem test_ldMemVx : runs 0xF255 { withRegs [1, 2, 3, 4] with index := 0x300 } (fun t =>
    holds t 0x300 [1, 2, 3, 0] && t.index == 0x300) = true := by decide +kernel
/-- V43.19: sixteen bytes that end at the top of memory. -/
theorem test_ldMemVx_top :
    runs 0xFF55 { withRegs [0, 1, 2, 3, 4, 5, 6, 7, 8, 9, 10, 11, 12, 13, 14, 15] with index := 0xFF0 } (fun t =>
      holds t 0xFF0 [0, 1, 2, 3, 4, 5, 6, 7, 8, 9, 10, 11, 12, 13, 14, 15] && t.mem.wf) = true := by decide +kernel
/-- V43.21, and the register above `Vx` kept. -/
theorem test_ldVxMem : runs 0xF265 { withBytes (withRegs [9, 9, 9, 9]) 0x300 [1, 5, 7, 8] with index := 0x300 } (fun t =>
    t.v == (withRegs [1, 5, 7, 9]).v && t.index == 0x300) = true := by decide +kernel
/-- V43.23. -/
theorem test_ldVxMem_out_of_range : runs 0xF065 { State.reset with index := 0x1000 } (fun t =>
    faulted t 0x200 (.outOfRange 0x1000 1 .loadRegs) && t.fault.map (·.cause.code) == some 2) = true := by decide

/-! ### Keys and timers -/

/-- V44.2 and V44.4: the latched key matches, and `Vx` is not masked. -/
theorem test_skp : runs 0xEA9E { State.reset.writeV 10 5 with key := some 5 } (·.pc == 0x204) = true ∧
    runs 0xEA9E { State.reset.writeV 10 0x15 with key := some 5 } (·.pc == 0x202) = true := by decide
/-- V44.5 and V44.6: no key is not key 0. -/
theorem test_sknp : runs 0xEAA1 State.reset (·.pc == 0x204) = true ∧
    runs 0xEAA1 { State.reset.writeV 10 5 with key := some 5 } (·.pc == 0x202) = true := by decide
/-- V44.8. -/
theorem test_ldVxDt : runs 0xFA07 { State.reset with dt := 0x20 } (fun t => t.readV 10 == 0x20) = true := by decide
/-- V44.12: a held key does not resolve the wait. -/
theorem test_ldVxK : runs 0xFA0A { State.reset with key := some 3 } (fun t =>
    t.wait == some 10 && t.readV 10 == 0 && t.pc == 0x202) = true := by decide
/-- V44.9. -/
theorem test_ldDtVx : runs 0xFA15 (State.reset.writeV 10 0x3C) (fun t => t.dt == 60 && t.st == 0) = true := by decide
/-- V44.10: no beep yet. -/
theorem test_ldStVx : runs 0xFA18 (State.reset.writeV 10 2) (fun t =>
    t.st == 2 && t.dt == 0 && t.beeping == false && t.events == []) = true := by decide

/-! ### The host's operations, the tick and the step -/

/-- T5 and T6. -/
theorem test_press : gives (hostOp (.press 7) { State.reset with wait := some 3 }) (fun t =>
      t.key == some 7 && t.readV 3 == 7 && t.wait == none) = true ∧
    gives (hostOp (.press 7) { State.reset with key := some 2 }) (fun t =>
      t.key == some 7 && t.v == State.reset.v) = true := by decide
/-- T7. -/
theorem test_release : gives (hostOp .release { State.reset with key := some 7, wait := some 3 }) (fun t =>
    t.key == none && t.wait == some 3) = true := by decide
/-- T3: the beep stops after the first cycle of the tick that counts `ST` to 0. -/
theorem test_tick_stops_beep :
    gives (hostOp .tick ({ State.reset with st := 1, beeping := true }.storeFetchWord 0x1200)) (fun t =>
      t.st == 0 && t.beeping == false && t.events == [.stopBeep] && t.pc == 0x200) = true := by decide +kernel
/-- T4: a waiting tick runs no cycle. -/
theorem test_tick_waiting :
    gives (step { State.reset with wait := some 2, dt := 5, st := 1, beeping := true, script := [.tick, .release] })
      (fun t => t.dt == 4 && t.st == 0 && t.beeping && t.events == [] && t.script == [.release] &&
        t.cyclesLeft == 0) = true := by decide
/-- T9: `6001 7001 00EE`, the third cycle faults and the tick ends there. -/
theorem test_tick_fault :
    gives (hostOp .tick (withBytes State.reset 0x200 [0x60, 0x01, 0x70, 0x01, 0x00, 0xEE])) (fun t =>
      t.readV 0 == 2 && t.pc == 0x204 && faulted t 0x204 .stackUnderflow) = true := by decide +kernel
/-- P5 step 1, one cycle at a time: after `F118` the beep has started and 9 of 11 cycles are left. -/
theorem test_step_starts_beep :
    gives (Host.Core.run core 2 (withBytes State.reset 0x200 [0x61, 0x02, 0xF1, 0x18, 0x12, 0x04])) (fun t =>
      t.st == 2 && t.beeping && t.events == [.startBeep] && t.cyclesLeft == 9 && t.pc == 0x204) = true := by
  decide +kernel
/-- R96, D10: a step or an operation on a faulted core has no move. -/
theorem test_faulted_core_stops :
    gives (step { State.reset with fault := some { pc := 0x200, cause := .stackUnderflow } }) (fun _ => true) = false ∧
    gives (hostOp .release { State.reset with fault := some { pc := 0x200, cause := .stackUnderflow } })
      (fun _ => true) = false := by decide
/-- F3, second cycle: a fetch that reaches past the end of memory. -/
theorem test_fetch_out_of_range : gives (cycle { State.reset with pc := 0xFFF }) (fun t =>
    faulted t 0xFFF (.outOfRange 0xFFF 2 .fetch)) = true := by decide
/-- T13: from reset, with nothing placed, the first step decodes `0x0000` and faults. -/
theorem test_step_from_reset : gives (step State.reset) (fun t =>
    faulted t 0x200 (.decodeFailure 0x0000) && t.cyclesLeft == 0) = true := by decide
/-- The word placed for the host runs as the very next step, and 10 of 11 cycles are left. -/
theorem test_withFetchWord : gives (step (State.reset.withFetchWord 16 0x2345)) (fun t =>
    t.stack == [0x200] && t.pc == 0x345 && t.cyclesLeft == 10 && t.fault == none) = true := by decide +kernel
/-- T14 (refused), and a ROM that is too long (T11), reported before the rate (R112's order). -/
theorem test_construct_refuses :
    (match construct (Vector.replicate 80 0) none [] 59 with
      | .ok _ => false
      | .error e => e == .clockRefused 59) = true ∧
    construct (Vector.replicate 80 0) none (List.replicate 3585 0) 59 = .error (.romTooLarge 3585) := by
  refine ⟨by decide, ?_⟩
  rw [construct, if_pos (by rw [test_long_rom_refused]; decide), List.length_replicate]
/-- R30: a constructed machine holds its font and its ROM, here a font of 80 bytes `AA` and the ROM `12 00`. -/
theorem test_construct :
    (match construct (Vector.replicate 80 0xAA) (some 16) [0x12, 0x00] 60 with
      | .ok s => holds s 0x4F [0, 0xAA] && holds s 0x9F [0xAA, 0] && holds s 0x1FF [0, 0x12, 0, 0] && s.mem.wf &&
          s.ipt == 1 && s.pc == 0x200
      | .error _ => false) = true := by decide +kernel
/-- R29: glyph A of the default font at `0x50 + 5 * 10`, and zeros on both sides of the font. -/
theorem test_font_in_reset_memory :
    holds State.reset 0x82 [0xF0, 0x90, 0xF0, 0x90, 0x90] = true ∧ holds State.reset 0x9F [0x80, 0] = true ∧
      holds State.reset 0x4F [0, 0xF0] = true := by decide +kernel

/-! ### Witnesses: for each obligation with hypotheses, states and operands that meet all of them, clause by clause at
the ends of each range -/

/-- A state three cycles before the end of a tick, with a return address, a stored byte and `2345` at `pc`. -/
def midTick : State :=
  (withBytes { State.reset with cyclesLeft := 3, stack := [0x204], script := [.press 4] } 0x300 [7]).storeFetchWord 0x2345

/-- The last state whose fetch is in range: `3000` at `0xFFE` (V41.19). -/
def lastFetch : State := { State.reset with pc := 0xFFE, cyclesLeft := 1 }.storeFetchWord 0x3000

/-- A state between ticks whose host ticks next, with `3000` at `0xFFE`. -/
def beforeTick : State :=
  { State.reset with pc := 0xFFE, dt := 1, st := 2, script := [.tick, .release] }.storeFetchWord 0x3000

/-- A state that waits for a key into `V3`. -/
def waiting : State := { State.reset with wait := some 3, dt := 0, st := 1, beeping := true, script := [.tick] }

/-- A faulted state. -/
def halted : State := { State.reset with fault := some { pc := 0x200, cause := .stackUnderflow } }

theorem witness_EncodeOfDecodeIsTheWord :
    decodeWord 0x0FFF = .error (.decodeFailure 0x0FFF) ∧ decodeWord 0x1000 = .ok (.jp 0) ∧
      decodeWord 0xFF65 = .ok (.ldVxMem 15) := by decide

theorem witness_EveryWordHasOneRowOrFails :
    (decodeWord 0x8FFE = .ok (.shl 15 15) ∧ decodeTable.filter (matchesRow 0x8FFE) = [(0x800E, 0xF00F)]) ∧
      decodeTable.filter (matchesRow 0x8FFF) = [] := by decide

theorem witness_FetchReadsTwoBytesOrFaults :
    lastFetch.pc.toNat + 2 ≤ 4096 ∧ 4096 < { State.reset with pc := 0xFFF }.pc.toNat + 2 := by decide

theorem witness_UndecodableWordFaults :
    let s : State := { State.reset with pc := 0xFFE }
    s.pc.toNat + 2 ≤ 4096 ∧ s.readByte s.pc.toNat ++ s.readByte (s.pc.toNat + 1) = (0x0000 : Word) ∧
      ∀ i, decodeWord 0x0000 ≠ .ok i := by
  refine ⟨by decide, by decide, fun i h => ?_⟩
  have h' : decodeWord 0x0000 = .error (.decodeFailure 0x0000) := by decide
  rw [h'] at h
  cases h

theorem witness_StepRunsTheDecodedInstruction :
    lastFetch.fault = none ∧ 0 < lastFetch.cyclesLeft ∧ lastFetch.pc.toNat + 2 ≤ 4096 ∧
      decode (lastFetch.readByte lastFetch.pc.toNat) (lastFetch.readByte (lastFetch.pc.toNat + 1)) =
        .ok (.seImm 0 0) := by decide +kernel

theorem witness_TickStartRunsTheDecodedInstruction :
    beforeTick.fault = none ∧ beforeTick.cyclesLeft = 0 ∧ beforeTick.takeOp.1 = .tick ∧ beforeTick.wait = none ∧
      0 < beforeTick.ipt ∧ beforeTick.pc.toNat + 2 ≤ 4096 ∧
      decode (beforeTick.readByte beforeTick.pc.toNat) (beforeTick.readByte (beforeTick.pc.toNat + 1)) =
        .ok (.seImm 0 0) := by decide +kernel

theorem witness_TickEndsOnFaultOrWait :
    halted.fault ≠ none ∧ (waiting.fault = none ∧ waiting.wait ≠ none) ∧
      (lastFetch.fault = none ∧ lastFetch.wait = none) := by decide

theorem witness_OnlyAFaultedCoreStops : midTick.fault = none := by decide

theorem witness_FaultedCoreHasNoMove : halted.fault = some { pc := 0x200, cause := .stackUnderflow } := by decide

/-- `00EE` with an empty stack, in the middle of a tick. -/
def underflowing : State := { State.reset with cyclesLeft := 2 }.storeFetchWord 0x00EE

theorem witness_FaultingCycleWritesOnlyTheRecord : underflowing.fault = none ∧ ∃ t, cycle underflowing = .next t ∧
    t.fault = some { pc := 0x200, cause := .stackUnderflow } := by
  obtain ⟨t, h, ht⟩ := gives_next (o := cycle underflowing) (p := fun t => faulted t 0x200 .stackUnderflow)
    (by decide +kernel)
  exact ⟨by decide, t, h, by simpa [faulted] using ht⟩

/-- In the middle of a tick, and at the start of one (T13). -/
theorem witness_FaultingStepKeepsTheState :
    (underflowing.fault = none ∧ 0 < underflowing.cyclesLeft ∧ ∃ t, step underflowing = .next t ∧
      t.fault = some { pc := 0x200, cause := .stackUnderflow }) ∧
    (State.reset.fault = none ∧ State.reset.cyclesLeft = 0 ∧ ∃ t, step State.reset = .next t ∧
      t.fault = some { pc := 0x200, cause := .decodeFailure 0 }) := by
  obtain ⟨t, h, ht⟩ := gives_next (o := step underflowing) (p := fun t => faulted t 0x200 .stackUnderflow)
    (by decide +kernel)
  obtain ⟨u, h', hu⟩ := gives_next (o := step State.reset) (p := fun t => faulted t 0x200 (.decodeFailure 0))
    (by decide +kernel)
  exact ⟨⟨by decide, by decide, t, h, by simpa [faulted] using ht⟩, by decide, by decide, u, h',
    by simpa [faulted] using hu⟩

/-- With no limit, and with a limit not reached. Also for CallThenReturnResumesAfterTheCall. -/
theorem witness_CallPushesItsAddress :
    midTick.params.stackLimit ≠ some midTick.stack.length ∧
      { midTick with params := { clockHz := 700, stackLimit := some 2 } }.params.stackLimit ≠
        some midTick.stack.length := by decide

theorem witness_ReturnPopsAndResumes : midTick.stack = [] ++ [0x204] ∧
    { State.reset with stack := [0x204, 0xFFE] }.stack = [0x204] ++ [0xFFE] := by decide

theorem witness_StackFaultsWriteOnlyTheRecord : State.reset.stack = [] ∧
    { midTick with params := { clockHz := 700, stackLimit := some 1 } }.params.stackLimit =
      some midTick.stack.length := by decide

/-- The clauses of AddRegisterSetsCarry, SubtractionsSetNoBorrow and ShiftsMoveOneBitOut, and `nn = 0` of
RandomIsMaskedFreshDraw. -/
theorem witness_FlagClauses : (14 : Reg) ≠ VF ∧ (15 : Reg) = VF ∧ (0 : Byte) = 0 := by decide

/-- The last address in range for each access through `I` (BcdStoresThreeDigits, StoreRegistersWritesTheBlock,
LoadRegistersReadsTheBlock), and a register in the block and one above it. -/
theorem witness_AccessesInRange :
    { State.reset with index := 0xFFD }.index.toNat + 3 ≤ 4096 ∧
      { State.reset with index := 0xFF0 }.index.toNat + (15 : Reg).val + 1 ≤ 4096 ∧
      { State.reset with index := 0xFFF }.index.toNat + (0 : Reg).val + 1 ≤ 4096 ∧
      ((15 : Reg) ≤ 15 ∧ (0 : Reg) < 15) := by decide

/-- The first address out of range for each. -/
theorem witness_OutOfRangeAccessesFault :
    (0 < (1 : Fin 16).val ∧ 4096 < { State.reset with index := 0x1000 }.index.toNat + (1 : Fin 16).val) ∧
      4096 < { State.reset with index := 0xFFE }.index.toNat + 3 ∧
      4096 < { State.reset with index := 0xFF1 }.index.toNat + (15 : Reg).val + 1 := by decide

/-- V43.24 and each clause: a store of `V0`, `V1` at `0x202`, seen by fetches that meet both bytes, the last one, the
first one and neither; and the same for the three digits of `LD B`. -/
theorem witness_StoresAreSeenByFetches :
    let s : State := { State.reset with index := 0x202 }
    s.index.toNat + (1 : Reg).val + 1 ≤ 4096 ∧
      ((0x202 : Word).toNat = s.index.toNat + (0 : Reg).val ∧ (0x202 : Word).toNat + 1 = s.index.toNat + (1 : Reg).val) ∧
      s.index.toNat + (1 : Reg).val < (0x203 : Word).toNat + 1 ∧ (0x201 : Word).toNat < s.index.toNat ∧
      (s.index.toNat + (1 : Reg).val < (0xFFE : Word).toNat ∧ (0xFFE : Word).toNat + 2 ≤ 4096) ∧
      (s.index.toNat + 3 ≤ 4096 ∧ (0x202 : Word).toNat = s.index.toNat + 0 ∧
        (0x203 : Word).toNat + 1 = s.index.toNat + 2 ∧ s.index.toNat + 3 ≤ (0x204 : Word).toNat + 1) := by decide

/-- R39 on the digits of `LD B`: 157 stored at `0x202` (S6), where the next fetch reads `01 05`. -/
theorem test_fetch_sees_digits : runs 0xFA33 { State.reset.writeV 10 157 with index := 0x202 } (fun t =>
    fetch t == some (0x01, 0x05)) = true := by decide +kernel

theorem witness_CanonicalMemoriesAreEqualWhenTheyReadEqual :
    Memory.wf (midTick.mem) = true ∧ Memory.wf (Memory.write midTick.mem 0x300 7) = true ∧
      ∀ a, a < 4096 → midTick.mem.read a = (Memory.write midTick.mem 0x300 7).read a := by
  have h : Memory.write midTick.mem 0x300 7 = midTick.mem := by decide +kernel
  rw [h]
  exact ⟨by decide +kernel, by decide +kernel, fun _ _ => rfl⟩

/-- V40.14: the sprite `C0` at (5, 5), where one cell is on. -/
def colliding : State :=
  { withBytes (withTwo 0 5 1 5) 0x300 [0xC0] with index := 0x300, fb := Framebuffer.allOff.set 5 5 true }

/-- V40.10 (the last range allowed), `n = 0` out of range (V40.13), a collision (V40.14) and none. -/
theorem witness_DrawFlipsTheCoveredCells :
    { State.reset with index := 0xFFE }.index.toNat + (2 : Fin 16).val ≤ 4096 ∧ (0 : Fin 16).val = 0 ∧
      (spriteCovers colliding 0 1 1 5 5 = true ∧ colliding.fb.get 5 5 = true ∧
        spriteCovers colliding 0 1 1 6 5 = true ∧ colliding.fb.get 6 5 = false) ∧
      ∀ px py, px < 64 → py < 32 → State.reset.fb.get px py = false :=
  ⟨by decide, rfl, by decide +kernel, fun px py _ _ => Framebuffer.get_allOff px py⟩

theorem witness_HostOperations : State.reset.fault = none ∧ State.reset.wait = none ∧
    waiting.fault = none ∧ waiting.wait = some 3 := by decide

theorem witness_WaitingTickRunsNoCycle :
    waiting.fault = none ∧ waiting.cyclesLeft = 0 ∧ waiting.wait = some 3 ∧ waiting.takeOp.1 = .tick := by decide

/-- A waiting state whose host presses a key next, and one about to run `F30A`. -/
def pressing : State := { waiting with script := [.press 7] }
def startingWait : State := { State.reset with cyclesLeft := 2 }.storeFetchWord 0xF30A

/-- The invariant of a machine without STACK_LIMIT, as a check that can be evaluated. -/
def invCheck (s : State) : Bool :=
  s.mem.wf && decide (s.pc.toNat ≤ 0x1002) && s.stack.all (fun a => decide (a.toNat ≤ 0xFFE)) &&
    s.params.stackLimit.isNone && (s.wait.isNone || s.cyclesLeft == 0) && (s.fault.isNone || s.cyclesLeft == 0) &&
    decide (s.cyclesLeft ≤ s.ipt)

theorem inv_of_check {s : State} (h : invCheck s = true) : s.Inv := by
  simp only [invCheck, Bool.and_eq_true, Bool.or_eq_true, decide_eq_true_eq, List.all_eq_true, Option.isNone_iff_eq_none,
    beq_iff_eq] at h
  obtain ⟨⟨⟨⟨⟨⟨h1, h2⟩, h3⟩, h4⟩, h5⟩, h6⟩, h7⟩ := h
  exact
    { memory := h1
      addresses := ⟨h2, h3⟩
      stack := fun n hn => by rw [h4] at hn; cases hn
      driver := ⟨fun hw => h5.resolve_left (Option.isSome_iff_ne_none.1 hw),
        fun hf => h6.resolve_left (Option.isSome_iff_ne_none.1 hf), h7⟩ }

theorem midTick_inv : midTick.Inv := inv_of_check (by decide +kernel)
theorem pressing_inv : pressing.Inv := inv_of_check (by decide +kernel)
theorem waiting_inv : waiting.Inv := inv_of_check (by decide +kernel)
theorem startingWait_inv : startingWait.Inv := inv_of_check (by decide +kernel)

theorem witness_WaitingStartsWithGetKeyAndEndsWithPress :
    (startingWait.Inv ∧ startingWait.wait = none ∧ ∃ t, step startingWait = .next t ∧ t.wait = some 3) ∧
    (pressing.Inv ∧ pressing.wait = some 3 ∧ ∃ t, step pressing = .next t ∧ t.wait = none) ∧
    (waiting.Inv ∧ waiting.wait = some 3 ∧ ∃ t, step waiting = .next t ∧ t.wait ≠ none) := by
  obtain ⟨t, h, ht⟩ := gives_next (o := step startingWait) (p := fun t => t.wait == some 3) (by decide +kernel)
  obtain ⟨u, h', hu⟩ := gives_next (o := step pressing) (p := fun t => t.wait == none) (by decide +kernel)
  obtain ⟨w, h'', hw⟩ := gives_next (o := step waiting) (p := fun t => t.wait != none) (by decide +kernel)
  exact ⟨⟨startingWait_inv, by decide, t, h, by simpa using ht⟩, ⟨pressing_inv, by decide, u, h', by simpa using hu⟩,
    waiting_inv, by decide, w, h'', by simpa using hw⟩

theorem witness_TickIsARunOfSteps :
    beforeTick.fault = none ∧ beforeTick.cyclesLeft = 0 ∧ beforeTick.script = .tick :: [.release] := by decide

theorem witness_HostScriptIsARunOfSteps : beforeTick.fault = none ∧ beforeTick.cyclesLeft = 0 := by decide

/-- The longest ROM accepted and the shortest rejected, the lowest clock rate accepted and the highest refused. -/
theorem witness_Construct :
    ((List.replicate 3584 (0xFF : Byte)).length ≤ 3584 ∧ 60 ≤ 60) ∧
      3584 < (List.replicate 3585 (0xFF : Byte)).length ∧ 59 < 60 := by
  rw [List.length_replicate, List.length_replicate]; decide

theorem witness_ResetState : 0x4F < 0x50 ∧ 0xA0 ≤ 0xA0 := by decide

/-- `exec` answers a next state that changes the part a clause of EachPartHasItsWriters speaks of. -/
theorem witness_EachPartHasItsWriters :
    gives (exec (.addI 0) { State.reset.writeV 0 1 with index := 5 }) (fun t => t.index != 5) = true ∧
    gives (exec .ret midTick) (fun t => t.stack != midTick.stack) = true ∧
    gives (exec (.ldDtVx 0) (State.reset.writeV 0 1)) (fun t => t.dt != 0) = true ∧
    gives (exec (.ldStVx 0) (State.reset.writeV 0 1)) (fun t => t.st != 0) = true ∧
    gives (exec (.ldVxK 0) State.reset) (fun t => t.wait != none) = true ∧
    gives (exec (.drw 0 0 1) { State.reset with index := 0x50 }) (fun t => t.fb.get 0 0 != State.reset.fb.get 0 0) = true ∧
    gives (exec (.ldMemVx 0) (State.reset.writeV 0 1)) (fun t => t.readByte 0 != 0) = true ∧
    gives (exec .ret State.reset) (fun t => t.fault != none) = true := by decide +kernel

theorem witness_RandomDrawCounts : ∃ t, exec (.rnd 0 0xFF) State.reset = .next t ∧ t.draws ≠ State.reset.draws :=
  ⟨_, rfl, by decide⟩

theorem witness_OnlyFlagWritersAndDestinationsChangeVF : ∃ t,
    exec (.addReg 15 0) (withTwo 15 0x80 0 0x80) = .next t ∧ t.readV VF ≠ (withTwo 15 0x80 0 0x80).readV VF := by
  obtain ⟨t, h, ht⟩ := gives_next (o := exec (.addReg 15 0) (withTwo 15 0x80 0 0x80)) (p := fun t => t.readV 15 == 1)
    (by decide)
  exact ⟨t, h, by rw [show t.readV VF = 1 by simpa using ht]; decide⟩

/-- Each clause: a call, a return, an instruction that advances by two, a skip that is taken, one that is not, and an
instruction that faults. -/
theorem witness_PcAdvancesByTheTable :
    gives (exec (.call 0xFFF) midTick) (fun t => t.fault == none && t.pc == 0xFFF) = true ∧
    gives (exec .ret midTick) (fun t => t.fault == none && t.pc == 0x206) = true ∧
    gives (exec (.ldImm 0 1) midTick) (fun t => t.fault == none && t.pc == 0x202) = true ∧
    gives (exec (.seImm 0 0) midTick) (fun t => t.fault == none && t.pc == 0x204) = true ∧
    gives (exec (.sneImm 0 0) midTick) (fun t => t.fault == none && t.pc == 0x202) = true ∧
    (State.reset.fault = none ∧ gives (exec .ret State.reset) (fun t => t.fault != none && t.pc == 0x200) = true) := by
  decide +kernel

theorem witness_StepKeepsTheInvariant : midTick.Inv ∧ ∃ t, step midTick = .next t ∧ t.stack = [0x204, 0x200] := by
  obtain ⟨t, h, ht⟩ := gives_next (o := step midTick) (p := fun t => t.stack == [0x204, 0x200]) (by decide +kernel)
  exact ⟨midTick_inv, t, h, by simpa using ht⟩

/-- A state with one cell drawn, whose next cycle clears it (a display mirror that changes). -/
def drawn : State :=
  { State.reset with
    events := [.drawPixel 3 4], fb := Framebuffer.allOff.set 3 4 true, cyclesLeft := 2 }.storeFetchWord 0x00E0

theorem witness_DisplayMirrorsTheEvents : drawn.displayMirrored ∧
    ∃ t, step drawn = .next t ∧ t.events = [.drawPixel 3 4, .clearPixel 3 4] := by
  obtain ⟨t, h, ht⟩ := gives_next (o := step drawn) (p := fun t => t.events == [.drawPixel 3 4, .clearPixel 3 4])
    (by decide +kernel)
  exact ⟨by unfold State.displayMirrored; decide +kernel, t, h, by simpa using ht⟩

/-- A state that beeps while `ST` is 0: its next cycle stops the beep. -/
def beeping : State :=
  { State.reset with events := [.startBeep], beeping := true, cyclesLeft := 2 }.storeFetchWord 0x1200

theorem witness_AudioEventsAlternate : beeping.audioAlternates ∧
    ∃ t, step beeping = .next t ∧ t.events = [.startBeep, .stopBeep] := by
  obtain ⟨t, h, ht⟩ := gives_next (o := step beeping) (p := fun t => t.events == [.startBeep, .stopBeep])
    (by decide +kernel)
  exact ⟨by unfold State.audioAlternates; decide, t, h, by simpa using ht⟩

/-- `lastFetch` with the largest address a call can push on its stack. -/
def lastReturn : State := { lastFetch with stack := [0xFFE] }

theorem lastReturn_inv : lastReturn.Inv := inv_of_check (by decide +kernel)

/-- Each clause at the end of its range: from the last address a fetch accepts, the largest target, the return to the
largest address, a skip that is taken (V41.19, the largest `pc` a rule writes), one that is not, and no skip. -/
theorem witness_PcNeverWraps :
    lastReturn.Inv ∧ lastReturn.pc.toNat + 2 ≤ 4096 ∧
    gives (exec (.jp 0xFFF) lastReturn) (fun t => t.fault == none && t.pc.toNat == 0xFFF) = true ∧
    gives (exec (.call 0xFFF) lastReturn) (fun t => t.fault == none && t.pc.toNat == 0xFFF) = true ∧
    gives (exec .ret lastReturn) (fun t => t.fault == none && t.pc.toNat == 0x1000) = true ∧
    gives (exec (.seImm 0 0) lastReturn) (fun t => t.fault == none && t.pc.toNat == 0x1002) = true ∧
    gives (exec (.sneImm 0 0) lastReturn) (fun t => t.fault == none && t.pc.toNat == 0x1000) = true ∧
    gives (exec (.ldImm 0 1) lastReturn) (fun t => t.fault == none && t.pc.toNat == 0x1000) = true :=
  ⟨lastReturn_inv, by decide +kernel⟩

end Sys2Proof.Tests
end

section
/-! PROOFS. The decode table against the decoder (30_encoding.md): a word that decodes selects the row of its
instruction, no word selects two rows, and a word that selects a row decodes (R45, R46, R47). -/

namespace Sys2Proof.Encoding

/-! ### A word that decodes selects the row of its instruction -/

theorem tableRow_mem_decodeTable (i : Instr) : tableRow i ∈ decodeTable := by
  cases i <;> simp [tableRow, decodeTable]

/-- Each branch of the decoder fixes the fields that the mask of its row keeps. -/
theorem matchesRow_tableRow_of_decodeWord {op : Word} {i : Instr} (h : decodeWord op = .ok i) :
    matchesRow op (tableRow i) = true := by
  unfold decodeWord at h
  repeat' split at h
  all_goals cases h
  all_goals simp [tableRow, matchesRow, mask_family, mask_family_digit, mask_family_byte, *]

/-! ### No word selects two rows -/

/-- Two rows that one word selects agree on the bits both masks keep. -/
theorem rows_agree_of_matchesRow {op : Word} {r r' : Word × Word} (h : matchesRow op r = true)
    (h' : matchesRow op r' = true) : r.1 &&& r'.2 = r'.1 &&& r.2 := by
  have hr : op &&& r.2 = r.1 := by simpa [matchesRow] using h
  have hr' : op &&& r'.2 = r'.1 := by simpa [matchesRow] using h'
  rw [← hr, ← hr']
  ac_rfl

/-- Any two rows of the table differ in a bit that both masks keep. -/
theorem decodeTable_rows_differ : decodeTable.Pairwise fun r r' => r.1 &&& r'.2 ≠ r'.1 &&& r.2 := by decide

theorem filter_decodeTable_eq_singleton {op : Word} {r : Word × Word} (hmem : r ∈ decodeTable)
    (h : matchesRow op r = true) : decodeTable.filter (matchesRow op) = [r] := by
  have hr : r ∈ decodeTable.filter (matchesRow op) := List.mem_filter.mpr ⟨hmem, h⟩
  have hdiffer := decodeTable_rows_differ.filter (matchesRow op)
  have hall : ∀ r' ∈ decodeTable.filter (matchesRow op), matchesRow op r' = true :=
    fun r' h' => (List.mem_filter.mp h').2
  match decodeTable.filter (matchesRow op), hr, hdiffer, hall with
  | [a], hr, _, _ => rw [List.mem_singleton.mp hr]
  | a :: b :: rest, _, hdiffer, hall =>
    exact absurd (rows_agree_of_matchesRow (hall a (by simp)) (hall b (by simp)))
      (List.rel_of_pairwise_cons hdiffer (by simp))

/-! ### A word that selects a row decodes -/

/-- The family digits whose row has mask `F000`. -/
def wholeFamilies : List (BitVec 4) := [0x1, 0x2, 0x3, 0x4, 0x6, 0x7, 0xA, 0xC, 0xD]

/-- The family digit and last digit of each row with mask `F00F`. -/
def digitRows : List (BitVec 4 × BitVec 4) :=
  [(0x5, 0x0), (0x8, 0x0), (0x8, 0x2), (0x8, 0x3), (0x8, 0x4), (0x8, 0x5), (0x8, 0x6), (0x8, 0x7), (0x8, 0xE),
    (0x9, 0x0)]

/-- The family digit and low byte of each row with mask `F0FF`. -/
def byteRows : List (BitVec 4 × Byte) :=
  [(0xE, 0x9E), (0xE, 0xA1), (0xF, 0x07), (0xF, 0x0A), (0xF, 0x15), (0xF, 0x18), (0xF, 0x1E), (0xF, 0x29), (0xF, 0x33),
    (0xF, 0x55), (0xF, 0x65)]

/-- The rows of the table by their masks. -/
theorem decodeTable_by_mask : decodeTable ⊆
    [(0x00E0#16, 0xFFFF#16), (0x00EE#16, 0xFFFF#16)] ++
    wholeFamilies.map (fun a => ((a ++ 0x000#12, 0xF000#16) : Word × Word)) ++
    digitRows.map (fun d => ((d.1 ++ 0x00#8 ++ d.2, 0xF00F#16) : Word × Word)) ++
    byteRows.map (fun d => ((d.1 ++ 0x0#4 ++ d.2, 0xF0FF#16) : Word × Word)) := by
  decide

theorem decodeWord_ok_of_wholeFamilies {op : Word} (h : fieldI op ∈ wholeFamilies) :
    ∃ i, decodeWord op = .ok i := by
  simp only [wholeFamilies, List.mem_cons, List.not_mem_nil, or_false] at h
  rcases h with h | h | h | h | h | h | h | h | h <;> simp [decodeWord, h]

theorem decodeWord_ok_of_digitRows {op : Word} (h : (fieldI op, fieldN op) ∈ digitRows) :
    ∃ i, decodeWord op = .ok i := by
  simp only [digitRows, List.mem_cons, Prod.mk.injEq, List.not_mem_nil, or_false] at h
  rcases h with h | h | h | h | h | h | h | h | h | h <;> simp [decodeWord, h]

theorem decodeWord_ok_of_byteRows {op : Word} (h : (fieldI op, fieldNN op) ∈ byteRows) :
    ∃ i, decodeWord op = .ok i := by
  simp only [byteRows, List.mem_cons, Prod.mk.injEq, List.not_mem_nil, or_false] at h
  rcases h with h | h | h | h | h | h | h | h | h | h | h <;> simp [decodeWord, h]

theorem decodeWord_ok_of_matchesRow {op : Word} {r : Word × Word} (hmem : r ∈ decodeTable)
    (h : matchesRow op r = true) : ∃ i, decodeWord op = .ok i := by
  have hrow := decodeTable_by_mask hmem
  simp only [List.mem_append, List.mem_map, List.mem_cons, List.not_mem_nil, or_false] at hrow
  rcases hrow with (((rfl | rfl) | ⟨a, ha, rfl⟩) | ⟨⟨a, n⟩, ha, rfl⟩) | ⟨⟨a, nn⟩, ha, rfl⟩
  · rw [matchesRow_word, beq_iff_eq] at h
    exact ⟨.cls, by subst h; decide⟩
  · rw [matchesRow_word, beq_iff_eq] at h
    exact ⟨.ret, by subst h; decide⟩
  · rw [matchesRow_family, beq_iff_eq] at h
    exact decodeWord_ok_of_wholeFamilies (h ▸ ha)
  · simp only [matchesRow_digit, Bool.and_eq_true, beq_iff_eq] at h
    obtain ⟨rfl, rfl⟩ := h
    exact decodeWord_ok_of_digitRows ha
  · simp only [matchesRow_byte, Bool.and_eq_true, beq_iff_eq] at h
    obtain ⟨rfl, rfl⟩ := h
    exact decodeWord_ok_of_byteRows ha

theorem filter_decodeTable_eq_nil {op : Word} {e : DecodeError} (h : decodeWord op = .error e) :
    decodeTable.filter (matchesRow op) = [] := by
  refine List.filter_eq_nil_iff.mpr fun r hmem hr => ?_
  obtain ⟨i, hi⟩ := decodeWord_ok_of_matchesRow hmem hr
  rw [hi] at h
  cases h

/-- Settles O3: the row of the decoded instruction is selected and no other row meets it, and a word that decodes to
nothing selects no row because every row's words decode. -/
theorem everyWordHasOneRowOrFails : Obligations.EveryWordHasOneRowOrFails := by
  intro op
  cases h : decodeWord op with
  | ok i =>
    exact .inl ⟨i, rfl, filter_decodeTable_eq_singleton (tableRow_mem_decodeTable i)
      (matchesRow_tableRow_of_decodeWord h)⟩
  | error e => exact .inr ⟨by rw [Machine.decodeWord_error h], filter_decodeTable_eq_nil h⟩

end Sys2Proof.Encoding
end

section
/-! PROOFS. The jump and the compare skips (41_control_flow.md): each has one outcome, a write of `pc` alone, and its
word stands in its own row of the decode table (R55, R57 to R60). -/

namespace Sys2Proof.ControlFlow

open Sys2Proof.Machine
open Sys2Proof.Laws

/-! ### The one outcome of each instruction -/

theorem exec_jp (nnn : Addr) (s : State) : exec (.jp nnn) s = .next (s.jumpTo (addrOperand nnn)) := rfl

theorem exec_seImm (x : Reg) (nn : Byte) (s : State) :
    exec (.seImm x nn) s = .next (s.skipIf (s.readV x == nn)) := rfl

theorem exec_sneImm (x : Reg) (nn : Byte) (s : State) :
    exec (.sneImm x nn) s = .next (s.skipIf (s.readV x != nn)) := rfl

theorem exec_seReg (x y : Reg) (s : State) :
    exec (.seReg x y) s = .next (s.skipIf (s.readV x == s.readV y)) := rfl

theorem exec_sneReg (x y : Reg) (s : State) :
    exec (.sneReg x y) s = .next (s.skipIf (s.readV x != s.readV y)) := rfl

/-! ### What the two writes of `pc` do -/

/-- An address is zero-extended, so no bit of the target is lost (R43). -/
theorem addrOperand_toNat (nnn : Addr) : (addrOperand nnn).toNat = nnn.toNat :=
  BitVec.toNat_setWidth_of_le (by decide)

theorem sameExcept_pc_jumpTo (s : State) (target : Word) : SameExcept [.pc] s (s.jumpTo target) := by
  simp [SameExcept, State.readByte]

/-- A skip is a jump to one of two places, so it has the frame of a jump. -/
theorem sameExcept_pc_skipIf (s : State) (c : Bool) : SameExcept [.pc] s (s.skipIf c) :=
  sameExcept_pc_jumpTo s (s.pc + if c then 4 else 2)

/-- The skip distance, by the condition that the model's test decides. -/
theorem skipIf_pc_of_iff (s : State) {c : Bool} {p : Prop} [Decidable p] (h : c = true ↔ p) :
    (s.skipIf c).pc = s.pc + if p then 4 else 2 := by
  simp [h]

/-! ### The obligations -/

/-- Settles O14: the target is the zero-extended address, and the jump's frame is the whole state but `pc`. -/
theorem jumpSetsThePc : Obligations.JumpSetsThePc := fun s nnn =>
  ⟨_, exec_jp nnn s, addrOperand_toNat nnn, sameExcept_pc_jumpTo s _, MatchesItsRow.jp nnn⟩

/-- Settles O19: both tests against the immediate decide their condition, and a skip writes `pc` alone. -/
theorem immediateSkips : Obligations.ImmediateSkips := fun s x nn =>
  ⟨⟨_, exec_seImm x nn s, skipIf_pc_of_iff s beq_iff_eq, sameExcept_pc_skipIf s _, MatchesItsRow.seImm x nn⟩,
    ⟨_, exec_sneImm x nn s, skipIf_pc_of_iff s bne_iff_ne, sameExcept_pc_skipIf s _, MatchesItsRow.sneImm x nn⟩⟩

/-- Settles O20: both tests of the two registers decide their condition, and a skip writes `pc` alone. -/
theorem registerSkips : Obligations.RegisterSkips := fun s x y =>
  ⟨⟨_, exec_seReg x y s, skipIf_pc_of_iff s beq_iff_eq, sameExcept_pc_skipIf s _, MatchesItsRow.seReg x y⟩,
    ⟨_, exec_sneReg x y s, skipIf_pc_of_iff s bne_iff_ne, sameExcept_pc_skipIf s _, MatchesItsRow.sneReg x y⟩⟩

end Sys2Proof.ControlFlow
end

section
/-! PROOFS. The loads and the immediate addition (42_alu.md): each has one outcome, a write of `Vx` and the common
advance, and no write of the flag (R62, R63, R64). -/

namespace Sys2Proof.Alu

open Sys2Proof.Machine
open Sys2Proof.Laws

/-! ### The one outcome of each instruction -/

theorem exec_ldImm (x : Reg) (nn : Byte) (s : State) :
    exec (.ldImm x nn) s = .next (s.writeV x nn).advance := rfl

theorem exec_ldReg (x y : Reg) (s : State) :
    exec (.ldReg x y) s = .next (s.writeV x (s.readV y)).advance := rfl

theorem exec_addImm (x : Reg) (nn : Byte) (s : State) :
    exec (.addImm x nn) s = .next (s.writeV x (s.readV x + nn)).advance := rfl

/-! ### What a register write and the advance do -/

theorem readV_writeV_advance (s : State) (x : Reg) (b : Byte) : (s.writeV x b).advance.readV x = b := by simp

theorem regsSameExcept_writeV_advance (s : State) (x : Reg) (b : Byte) :
    RegsSameExcept [x] s (s.writeV x b).advance := by
  intro k hk
  have hne : k ≠ x := List.ne_of_not_mem_cons hk
  simp [hne]

theorem sameExcept_regs_pc_writeV_advance (s : State) (x : Reg) (b : Byte) :
    SameExcept [.regs, .pc] s (s.writeV x b).advance := by
  simp [SameExcept]

/-! ### The obligations -/

/-- Settles O22: each load is one write of `Vx` and the advance, whichever register `x` is, `VF` included. -/
theorem loadsWriteTheRegister : Obligations.LoadsWriteTheRegister := fun s x y nn =>
  ⟨⟨_, exec_ldImm x nn s, readV_writeV_advance s x _, regsSameExcept_writeV_advance s x _, State.advance_pc _,
      sameExcept_regs_pc_writeV_advance s x _, MatchesItsRow.ldImm x nn⟩,
    ⟨_, exec_ldReg x y s, readV_writeV_advance s x _, regsSameExcept_writeV_advance s x _, State.advance_pc _,
      sameExcept_regs_pc_writeV_advance s x _, MatchesItsRow.ldReg x y⟩⟩

/-- Settles O23: the byte written to `Vx` is the sum of two bytes, which is the sum modulo 256, and it is the only
register write, so a carry reaches no flag. -/
theorem addImmediateWrapsWithoutFlag : Obligations.AddImmediateWrapsWithoutFlag := by
  intro s x nn
  have hsum : ((s.writeV x (s.readV x + nn)).advance.readV x).toNat = ((s.readV x).toNat + nn.toNat) % 256 := by
    rw [readV_writeV_advance, BitVec.toNat_add]
  exact ⟨_, exec_addImm x nn s, hsum, regsSameExcept_writeV_advance s x _, State.advance_pc _,
    sameExcept_regs_pc_writeV_advance s x _, MatchesItsRow.addImm x nn⟩

end Sys2Proof.Alu
end

section
/-! PROOFS. The index register (43_index_memory.md): `LD I, nnn` has one outcome, a write of `I` and the common advance
(R73). -/

namespace Sys2Proof.IndexMemory

open Sys2Proof.Machine
open Sys2Proof.Laws

/-! ### The one outcome of the instruction -/

theorem exec_ldI (nnn : Addr) (s : State) :
    exec (.ldI nnn) s = .next (s.writeIndex (addrOperand nnn)).advance := rfl

/-! ### What an index write and the advance do -/

theorem sameExcept_index_pc_writeIndex_advance (s : State) (a : Word) :
    SameExcept [.index, .pc] s (s.writeIndex a).advance := by
  simp [SameExcept]

/-! ### The obligation -/

/-- Settles O29: the word written to `I` is the zero-extended address, so it has the operand's value, and the write and
the advance touch `I` and `pc` alone. -/
theorem loadIndexSetsI : Obligations.LoadIndexSetsI := by
  intro s nnn
  have hindex : (s.writeIndex (addrOperand nnn)).advance.index.toNat = nnn.toNat := by
    rw [State.advance_index, State.writeIndex_index, ControlFlow.addrOperand_toNat]
  exact ⟨_, exec_ldI nnn s, hindex, State.advance_pc _, sameExcept_index_pc_writeIndex_advance s _,
    MatchesItsRow.ldI nnn⟩

end Sys2Proof.IndexMemory
end

section
/-! PROOFS. The fetch (45_execution_cycle.md): it reads the two bytes at `pc`, or the cycle is the fault entry alone
(R86). -/

namespace Sys2Proof.ExecutionCycle

open Sys2Proof.Machine

/-- A cycle whose fetch reaches past the end of memory decodes nothing: it only raises the fault. -/
theorem cycle_outOfRange {s : State} (h : 4096 < s.pc.toNat + 2) :
    cycle s = .next (s.raise (.outOfRange s.pc 2 .fetch)) := by
  simp only [cycle, fetch_outOfRange h]

/-- Settles O5: an accepted fetch reads both bytes, and past the end the fault entry writes the record alone. -/
theorem fetchReadsTwoBytesOrFaults : Obligations.FetchReadsTwoBytesOrFaults := fun _ =>
  ⟨fetch_inRange, cycle_outOfRange⟩

end Sys2Proof.ExecutionCycle
end

section
/-! PROOFS. The outputs (60_exceptions.md R102, R104, R105): what a step does to the framebuffer, the event sequence and
`beeping`, said once in two stages, the cells its cycle flips and the beep edge after it; both invariants of the events
follow stage by stage. -/

namespace Sys2Proof.Exceptions

open Sys2Proof.Machine

/-! ### The two stages of a step, as relations between states -/

/-- `t` shows the host what `s` shows it. -/
structure SameOutput (s t : State) : Prop where
  fb : t.fb = s.fb
  events : t.events = s.events
  beeping : t.beeping = s.beeping

/-- The output of `t` is that of `s` with distinct `cells` of the grid flipped (R53, R104). -/
structure FlipsCells (cells : List (Nat × Nat)) (s t : State) : Prop where
  inGrid : InGrid cells
  nodup : cells.Nodup
  fb : t.fb = (flipCells s.fb cells).fb
  events : t.events = s.events ++ cells.map (flipEvent s.fb)
  beeping : t.beeping = s.beeping

/-- The Audio call that makes a beep follow `ST` (R102). -/
def beepCall (st : Byte) : Event := if st ≠ 0 then .startBeep else .stopBeep

/-- The output of `t` is that of `s` with the beep turned to what `ST` says, by one Audio call (R102). -/
structure TogglesBeep (s t : State) : Prop where
  fb : t.fb = s.fb
  events : t.events = s.events ++ [beepCall t.st]
  beeping : t.beeping = decide (t.st ≠ 0)
  changed : t.beeping ≠ s.beeping

/-- `CLS` and `DRW`, the instructions that draw (R104). -/
def Draws (i : Instr) : Prop := i = .cls ∨ ∃ x y n, i = .drw x y n

/-- The bytes at `pc` are an instruction that draws. -/
def AtDrawing (s : State) : Prop :=
  ∃ i, decode (s.readByte s.pc.toNat) (s.readByte (s.pc.toNat + 1)) = .ok i ∧ Draws i

/-- What a cycle does to the output: it flips some cells, and none unless it runs an instruction that draws. -/
def CycleOutput (s t : State) : Prop := ∃ cells, FlipsCells cells s t ∧ (cells ≠ [] → AtDrawing s)

/-- An outcome has one next state. -/
theorem SameOutput.of_next {o : Host.Outcome State Fault Refusal} {s t u : State} (ho : o = .next u)
    (h : o = .next t) (hu : SameOutput s u) : SameOutput s t :=
  next_inj (ho.symm.trans h) ▸ hu

theorem FlipsCells.of_sameOutput {s t : State} (h : SameOutput s t) : FlipsCells [] s t where
  inGrid _ hc := nomatch hc
  nodup := List.nodup_nil
  fb := h.fb
  events := by simpa using h.events
  beeping := h.beeping

theorem CycleOutput.of_sameOutput {s t : State} (h : SameOutput s t) : CycleOutput s t :=
  ⟨[], .of_sameOutput h, fun hne => absurd rfl hne⟩

/-! ### What a step does to the output -/

theorem sameOutput_raise (s : State) (c : FaultCause) : SameOutput s (s.raise c) := ⟨rfl, rfl, rfl⟩

/-- Stated for any `v`, so that no comparison of states unfolds the block the load builds. -/
theorem sameOutput_replaceRegs (s : State) (v : Vector Byte 16) : SameOutput s { s with v := v }.advance :=
  ⟨rfl, rfl, rfl⟩

theorem exec_cls_flipsCells {s t : State} (h : exec .cls s = .next t) : FlipsCells (litCells s.fb) s t := by
  obtain rfl := next_inj h
  exact ⟨litCells_inGrid _, litCells_nodup _, rfl,
    congrArg (s.events ++ ·) (flipCells_events s.fb (litCells_inGrid _) (litCells_nodup _)), rfl⟩

theorem exec_drw_output {x y : Reg} {n : Fin 16} {s t : State} (h : exec (.drw x y n) s = .next t) :
    ∃ cells, FlipsCells cells s t := by
  rcases exec_drw_cases x y n s with hd | hf
  · obtain rfl := next_inj (hd.symm.trans h)
    have hg := spriteCells_inGrid (spriteOrigin s x y).1 (spriteOrigin s x y).2
      (s.mem.readBytes s.index.toNat n.val)
    have hn := spriteCells_nodup (spriteOrigin s x y).1 (spriteOrigin s x y).2
      (s.mem.readBytes s.index.toNat n.val)
    exact ⟨_, hg, hn, rfl, congrArg (s.events ++ ·) (flipCells_events s.fb hg hn), rfl⟩
  · exact ⟨[], .of_sameOutput (.of_next hf h (sameOutput_raise s _))⟩

/-- Every instruction but `CLS` and `DRW` leaves the output alone, on each of its outcomes. -/
theorem exec_sameOutput {i : Instr} {s t : State} (h : exec i s = .next t) (hi : ¬ Draws i) : SameOutput s t := by
  cases i
  case cls => exact absurd (.inl rfl) hi
  case drw x y n => exact absurd (.inr ⟨x, y, n, rfl⟩) hi
  case ret => rcases exec_ret_cases s with ⟨-, ho⟩ | ⟨below, a, -, ho⟩ <;> exact .of_next ho h ⟨rfl, rfl, rfl⟩
  case call nnn => rcases exec_call_cases nnn s with ⟨-, ho⟩ | ⟨-, ho⟩ <;> exact .of_next ho h ⟨rfl, rfl, rfl⟩
  case ldB x => rcases exec_ldB_cases x s with ⟨-, ho⟩ | ⟨-, ho⟩ <;> exact .of_next ho h ⟨rfl, rfl, rfl⟩
  case ldMemVx x => rcases exec_ldMemVx_cases x s with ⟨-, ho⟩ | ⟨-, ho⟩ <;> exact .of_next ho h ⟨rfl, rfl, rfl⟩
  case ldVxMem x =>
    rcases exec_ldVxMem_cases x s with ⟨-, ho⟩ | ⟨-, ho⟩
    · exact .of_next ho h (sameOutput_replaceRegs s _)
    · exact .of_next ho h (sameOutput_raise s _)
  all_goals
    obtain rfl := next_inj h
    exact ⟨rfl, rfl, rfl⟩

/-- A cycle changes the output only by the drawing of the instruction it runs, if it runs one. -/
theorem cycle_output {s t : State} (h : cycle s = .next t) : CycleOutput s t := by
  rcases cycle_cases s with ⟨-, hc⟩ | ⟨-, op, -, -, hc⟩ | ⟨-, i, hd, hc⟩
  · exact .of_sameOutput (.of_next hc h (sameOutput_raise s _))
  · exact .of_sameOutput (.of_next hc h (sameOutput_raise s _))
  · have he : exec i s = .next t := hc.symm.trans h
    by_cases hi : Draws i
    · have hf : ∃ cells, FlipsCells cells s t := by
        rcases hi with rfl | ⟨x, y, n, rfl⟩
        · exact ⟨_, exec_cls_flipsCells he⟩
        · exact exec_drw_output he
      exact hf.imp fun _ hf => ⟨hf, fun _ => ⟨i, hd, hi⟩⟩
    · exact .of_sameOutput (exec_sameOutput he hi)

/-- The beep edge does nothing when `beeping` says what `ST` says, and else toggles it (R102). -/
theorem beepEdge_output (s : State) : SameOutput s s.beepEdge ∨ TogglesBeep s s.beepEdge := by
  unfold State.beepEdge
  split_ifs with hstart hstop
  · obtain ⟨hst, hsilent⟩ := hstart
    exact .inr ⟨rfl, congrArg (s.events ++ [·]) (if_pos hst).symm, (decide_eq_true hst).symm, by simp [hsilent]⟩
  · obtain ⟨hst, hon⟩ := hstop
    exact .inr ⟨rfl, by simp [beepCall, hst], by simp [hst], by simp [hon]⟩
  · exact .inl ⟨rfl, rfl, rfl⟩

/-- What follows a cycle touches the output by the beep edge alone, if at all (R90). -/
theorem afterCycle_output (s : State) : SameOutput s s.afterCycle ∨ TogglesBeep s s.afterCycle := by
  have hedge (k : Nat) : SameOutput s (s.beepEdge.withCycles k) ∨ TogglesBeep s (s.beepEdge.withCycles k) :=
    (beepEdge_output s).imp (fun h => ⟨h.fb, h.events, h.beeping⟩)
      fun h => ⟨h.fb, h.events, h.beeping, h.changed⟩
  unfold State.afterCycle
  split_ifs
  · exact .inl ⟨rfl, rfl, rfl⟩
  · exact hedge _
  · exact hedge _

theorem sameOutput_takeOp (s : State) : SameOutput s s.takeOp.2 := by
  rw [State.takeOp_snd]
  exact ⟨rfl, rfl, rfl⟩

theorem sameOutput_press (s : State) (k : Key) : SameOutput s (s.press k) := by
  unfold State.press
  split <;> exact ⟨rfl, rfl, rfl⟩

/-- The host's script and the start of a tick leave alone the output and what a cycle fetches. -/
theorem cycleOutput_of_startTick {s t : State} {k : Nat}
    (h : CycleOutput (s.takeOp.2.decrementTimers.withCycles k) t) : CycleOutput s t := by
  rw [State.takeOp_snd] at h
  obtain ⟨cells, hf, hd⟩ := h
  exact ⟨cells, ⟨hf.inGrid, hf.nodup, hf.fb, hf.events, hf.beeping⟩, hd⟩

/-- A step is the output of a cycle, then at most one beep edge; a step without a cycle shows nothing new. -/
theorem step_output {s t : State} (h : step s = .next t) :
    ∃ u, CycleOutput s u ∧ (SameOutput u t ∨ TogglesBeep u t) := by
  obtain ⟨-, ⟨-, u, hu, rfl⟩ | ⟨-, k, -, rfl⟩ | ⟨-, -, rfl⟩ | ⟨-, -, -, rfl⟩ | ⟨-, -, -, -, u, hu, rfl⟩⟩ := step_cases h
  · exact ⟨u, cycle_output hu, afterCycle_output u⟩
  · exact ⟨_, .of_sameOutput (sameOutput_takeOp s), .inl (sameOutput_press _ k)⟩
  · exact ⟨_, .of_sameOutput (sameOutput_takeOp s), .inl ⟨rfl, rfl, rfl⟩⟩
  · exact ⟨_, .of_sameOutput (sameOutput_takeOp s), .inl ⟨rfl, rfl, rfl⟩⟩
  · exact ⟨u, cycleOutput_of_startTick (cycle_output hu), afterCycle_output u⟩

/-! ### Which events are whose -/

theorem flipEvent_isGraphics (fb : Framebuffer) (c : Nat × Nat) : (flipEvent fb c).isGraphics = true := by
  unfold flipEvent
  split <;> rfl

theorem beepCall_isAudio (st : Byte) : (beepCall st).isAudio = true := by
  unfold beepCall
  split <;> rfl

/-- Flipping cells makes no Audio call. -/
theorem FlipsCells.audio_eq {cells : List (Nat × Nat)} {s t : State} (h : FlipsCells cells s t) :
    t.events.filter Event.isAudio = s.events.filter Event.isAudio := by
  have hnone : (cells.map (flipEvent s.fb)).filter Event.isAudio = [] := by
    rw [List.filter_eq_nil_iff]
    simp only [List.mem_map]
    rintro _ ⟨c, -, rfl⟩
    simpa [Event.isGraphics] using flipEvent_isGraphics s.fb c
  rw [h.events, List.filter_append, hnone, List.append_nil]

/-- The beep edge makes no Graphics call. -/
theorem TogglesBeep.graphics_eq {s t : State} (h : TogglesBeep s t) :
    t.events.filter Event.isGraphics = s.events.filter Event.isGraphics := by
  simp [h.events, Event.isGraphics, beepCall_isAudio]

theorem TogglesBeep.audio_eq {s t : State} (h : TogglesBeep s t) :
    t.events.filter Event.isAudio = s.events.filter Event.isAudio ++ [beepCall t.st] := by
  simp [h.events, beepCall_isAudio]

/-! ### The display mirrors the events -/

theorem SameOutput.displayMirrored {s t : State} (h : SameOutput s t) (hs : s.displayMirrored) : t.displayMirrored := by
  unfold State.displayMirrored
  rw [h.events, h.fb]
  exact hs

theorem FlipsCells.displayMirrored {cells : List (Nat × Nat)} {s t : State} (h : FlipsCells cells s t)
    (hs : s.displayMirrored) : t.displayMirrored := by
  unfold State.displayMirrored at hs ⊢
  rw [h.events, displayAfter_append, hs, h.fb, ← flipCells_events s.fb h.inGrid h.nodup]
  exact flipCells_display s.fb h.inGrid

theorem displayEvent_beepCall (fb : Framebuffer) (st : Byte) : displayEvent fb (beepCall st) = some fb := by
  unfold beepCall
  split <;> rfl

theorem TogglesBeep.displayMirrored {s t : State} (h : TogglesBeep s t) (hs : s.displayMirrored) :
    t.displayMirrored := by
  unfold State.displayMirrored at hs ⊢
  rw [h.events, displayAfter_append, hs, h.fb]
  simp [displayAfter, displayEvent_beepCall]

/-! ### The Audio calls alternate -/

theorem SameOutput.audioAlternates {s t : State} (h : SameOutput s t) (hs : s.audioAlternates) : t.audioAlternates := by
  unfold State.audioAlternates
  rw [h.events, h.beeping]
  exact hs

theorem FlipsCells.audioAlternates {cells : List (Nat × Nat)} {s t : State} (h : FlipsCells cells s t)
    (hs : s.audioAlternates) : t.audioAlternates := by
  unfold State.audioAlternates at hs ⊢
  rw [h.events, audioAfter_append, hs, h.beeping]
  exact audioAfter_map_flipEvent s.fb cells s.beeping

/-- The call that makes a beep follow `ST` is never redundant when the beep does not follow it yet. -/
theorem audioEvent_beepCall {on : Bool} {st : Byte} (h : decide (st ≠ 0) ≠ on) :
    audioEvent on (beepCall st) = some (decide (st ≠ 0)) := by
  unfold beepCall
  cases on <;> simp_all [audioEvent]

theorem TogglesBeep.audioAlternates {s t : State} (h : TogglesBeep s t) (hs : s.audioAlternates) :
    t.audioAlternates := by
  have hne : decide (t.st ≠ 0) ≠ s.beeping := h.beeping ▸ h.changed
  unfold State.audioAlternates at hs ⊢
  rw [h.events, audioAfter_append, hs, h.beeping]
  simp only [Option.bind_some, audioAfter, audioEvent_beepCall hne]

/-! ### The obligations -/

/-- Settles O58: flipping cells and the beep edge each keep the mirror; and a step whose cycle flips no cell has the
framebuffer it had and, the beep edge being no Graphics call, the Graphics events it had. -/
theorem displayMirrorsTheEvents : Obligations.DisplayMirrorsTheEvents := by
  intro s t h
  obtain ⟨u, ⟨cells, hflip, hdraw⟩, hedge⟩ := step_output h
  have hfb : t.fb = u.fb := hedge.elim (·.fb) (·.fb)
  have hgraphics : t.events.filter Event.isGraphics = u.events.filter Event.isGraphics :=
    hedge.elim (congrArg _ ·.events) (·.graphics_eq)
  refine ⟨fun hs => hedge.elim (·.displayMirrored (hflip.displayMirrored hs))
    (·.displayMirrored (hflip.displayMirrored hs)), fun hchange => hdraw ?_⟩
  rintro rfl
  have hfb' : u.fb = s.fb := hflip.fb
  have hevents : u.events = s.events := by simpa using hflip.events
  rcases hchange with hne | hne
  · exact hne (hfb.trans hfb')
  · exact hne (by rw [hgraphics, hevents])

/-- Settles O59: flipping cells makes no Audio call and the beep edge makes at most one, the call that is due. -/
theorem audioEventsAlternate : Obligations.AudioEventsAlternate := by
  intro s t h
  obtain ⟨u, ⟨cells, hflip, -⟩, hsame | htoggle⟩ := step_output h
  · refine ⟨fun hs => hsame.audioAlternates (hflip.audioAlternates hs), .inl ⟨?_, hsame.beeping.trans hflip.beeping⟩⟩
    rw [hsame.events, hflip.audio_eq]
  · refine ⟨fun hs => htoggle.audioAlternates (hflip.audioAlternates hs), .inr ⟨?_, htoggle.beeping, ?_⟩⟩
    · rw [htoggle.audio_eq, hflip.audio_eq]
      rfl
    · rw [← hflip.beeping]
      exact htoggle.changed

end Sys2Proof.Exceptions
end

section
/-! PROOFS. The decoder against the encoder (30_encoding.md): each undoes the other, on every instruction and on every
word that decodes (R42, R45, R46). -/

namespace Sys2Proof.Encoding

/-! ### Decode after encode -/

/-- Each branch of the decoder is chosen by fields that the encoder of its instruction writes. -/
theorem decodeWord_encode (i : Instr) : decodeWord (encode i) = .ok i := by
  cases i
  case cls => decide
  case ret => decide
  all_goals simp [encode, decodeWord]

/-- The operand types hold nothing that the fields do not (R43). -/
theorem wellFormed_eq_true (i : Instr) : i.wellFormed = true := by
  cases i <;> simp only [Instr.wellFormed, Bool.and_eq_true, decide_eq_true_eq] <;> omega

/-- Settles O1: the two bytes put together are the encoded word, whose fields lead the decoder back to the
instruction. -/
theorem decodeOfEncodeIsTheInstruction : Obligations.DecodeOfEncodeIsTheInstruction := by
  intro i
  refine ⟨?_, wellFormed_eq_true i⟩
  rw [decode, highByte_append_lowByte, decodeWord_encode]

/-! ### Encode after decode: the fields of a format determine the word -/

theorem wordNNN_of_fieldI {op : Word} {a : BitVec 4} (ha : fieldI op = a) : wordNNN a (fieldNNN op) = op := by
  rw [← ha, ← word_eq_wordNNN]

theorem wordXNN_of_fields {op : Word} {a : BitVec 4} {nn : Byte} (ha : fieldI op = a) (hnn : fieldNN op = nn) :
    wordXNN a (fieldX op) nn = op := by
  rw [← ha, ← hnn, ← word_eq_wordXNN]

theorem wordXYN_of_fields {op : Word} {a n : BitVec 4} (ha : fieldI op = a) (hn : fieldN op = n) :
    wordXYN a (fieldX op) (fieldY op) n = op := by
  rw [← ha, ← hn, ← word_digits]

/-- Settles O2: a branch of the decoder fixes the digits of the word that are no operand and keeps the others as
operands, and together they are the whole word. -/
theorem encodeOfDecodeIsTheWord : Obligations.EncodeOfDecodeIsTheWord := by
  intro op i h
  unfold decodeWord at h
  repeat' split at h
  all_goals cases h
  all_goals simp [encode, wordNNN_of_fieldI, wordXNN_of_fields, wordXYN_of_fields, *]

/-- Settles O4: the decoder runs on each word. -/
theorem writtenOutWordsDecode : Obligations.WrittenOutWordsDecode := by
  unfold Obligations.WrittenOutWordsDecode
  decide

end Sys2Proof.Encoding
end

section
/-! PROOFS. The outcomes of an instruction, said once: it completes, or its own check fails and it raises a fault alone
(R87, R96); what one that completes leaves unchanged, where it leaves `pc` (R88), and what it does to memory and to the
stack. -/

namespace Sys2Proof.Execution

open Sys2Proof.Machine

/-! ### The two outcomes of an instruction -/

/-- The instructions with a check of their own that can fail (R95). -/
def hasCheck : Instr → Bool
  | .ret | .call _ | .drw _ _ _ | .ldB _ | .ldMemVx _ | .ldVxMem _ => true
  | _ => false

/-- The instruction takes `s` to `t` with its own check, where it has one, passed. -/
inductive Completes : Instr → State → State → Prop
  | ret {s : State} {below : List Word} {a : Word} (h : s.stack = below ++ [a]) :
      Completes .ret s ({ s with stack := below }.jumpTo (a + 2))
  | call {s : State} {nnn : Addr} (h : s.params.stackLimit ≠ some s.stack.length) :
      Completes (.call nnn) s ((s.push s.pc).jumpTo (addrOperand nnn))
  | drw {s : State} {x y : Reg} {n : Fin 16} (h : n.val = 0 ∨ s.index.toNat + n.val ≤ 4096) :
      Completes (.drw x y n) s
        ((s.applyDrawing (drawingOf x y n s)).writeFlag (drawingOf x y n s).collision).advance
  | ldB {s : State} {x : Reg} (h : s.index.toNat + 3 ≤ 4096) :
      Completes (.ldB x) s (s.writeBytes s.index.toNat (bcdDigits (s.readV x))).advance
  | ldMemVx {s : State} {x : Reg} (h : s.index.toNat + (x.val + 1) ≤ 4096) :
      Completes (.ldMemVx x) s (s.writeBytes s.index.toNat (regBlock s x)).advance
  | ldVxMem {s : State} {x : Reg} (h : s.index.toNat + (x.val + 1) ≤ 4096) :
      Completes (.ldVxMem x) s { s with v := loadBlock s x }.advance
  | unchecked {i : Instr} {s t : State} (hc : hasCheck i = false) (h : exec i s = .next t) : Completes i s t

theorem Completes.exec_eq {i : Instr} {s t : State} (h : Completes i s t) : exec i s = .next t := by
  cases h with
  | ret h => simp only [exec, execRet, State.pop_append h]
  | call h => exact (exec_call_cases _ s).resolve_left (fun hf => h hf.1) |>.2
  | drw h => exact exec_drw_draws h
  | ldB h => exact (exec_ldB_cases _ s).resolve_right (fun hf => by omega) |>.2
  | ldMemVx h => exact (exec_ldMemVx_cases _ s).resolve_right (fun hf => by omega) |>.2
  | ldVxMem h => exact (exec_ldVxMem_cases _ s).resolve_right (fun hf => by omega) |>.2
  | unchecked _ h => exact h

/-- Every instruction answers a next state: it completes, or it has a check and raises a fault alone. -/
theorem exec_outcome (i : Instr) (s : State) :
    ∃ t, exec i s = .next t ∧ (Completes i s t ∨ (hasCheck i = true ∧ ∃ c, t = s.raise c)) := by
  cases i
  case ret =>
    obtain ⟨-, h⟩ | ⟨below, a, hs, h⟩ := exec_ret_cases s
    · exact ⟨_, h, .inr ⟨rfl, _, rfl⟩⟩
    · exact ⟨_, h, .inl (.ret hs)⟩
  case call nnn =>
    obtain ⟨-, h⟩ | ⟨hl, h⟩ := exec_call_cases nnn s
    · exact ⟨_, h, .inr ⟨rfl, _, rfl⟩⟩
    · exact ⟨_, h, .inl (.call hl)⟩
  case drw x y n =>
    by_cases hr : n.val = 0 ∨ s.index.toNat + n.val ≤ 4096
    · exact ⟨_, exec_drw_draws hr, .inl (.drw hr)⟩
    · exact ⟨_, exec_drw_faults (by omega) (by omega), .inr ⟨rfl, _, rfl⟩⟩
  case ldB x =>
    obtain ⟨hr, h⟩ | ⟨-, h⟩ := exec_ldB_cases x s
    · exact ⟨_, h, .inl (.ldB hr)⟩
    · exact ⟨_, h, .inr ⟨rfl, _, rfl⟩⟩
  case ldMemVx x =>
    obtain ⟨hr, h⟩ | ⟨-, h⟩ := exec_ldMemVx_cases x s
    · exact ⟨_, h, .inl (.ldMemVx hr)⟩
    · exact ⟨_, h, .inr ⟨rfl, _, rfl⟩⟩
  case ldVxMem x =>
    obtain ⟨hr, h⟩ | ⟨-, h⟩ := exec_ldVxMem_cases x s
    · exact ⟨_, h, .inl (.ldVxMem hr)⟩
    · exact ⟨_, h, .inr ⟨rfl, _, rfl⟩⟩
  all_goals exact ⟨_, rfl, .inl (.unchecked rfl rfl)⟩

theorem exec_cases {i : Instr} {s t : State} (h : exec i s = .next t) :
    Completes i s t ∨ (hasCheck i = true ∧ ∃ c, t = s.raise c) := by
  obtain ⟨u, hu, ho⟩ := exec_outcome i s
  rwa [next_inj (hu.symm.trans h)]

/-! ### What an instruction that completes leaves unchanged -/

/-- The parts of the state an instruction that completes may change. -/
def writes : Instr → List Part
  | .cls => [.display, .events, .pc]
  | .drw _ _ _ => [.display, .events, .regs, .pc]
  | .ret | .call _ => [.stack, .pc]
  | .jp _ | .seImm _ _ | .sneImm _ _ | .seReg _ _ | .sneReg _ _ | .skp _ | .sknp _ => [.pc]
  | .ldImm _ _ | .addImm _ _ | .ldReg _ _ | .and _ _ | .xor _ _ | .addReg _ _ | .sub _ _ | .shr _ _ | .subn _ _
  | .shl _ _ | .ldVxDt _ | .ldVxMem _ => [.regs, .pc]
  | .rnd _ _ => [.regs, .pc, .draws]
  | .ldI _ | .ldF _ => [.index, .pc]
  | .addI _ => [.index, .regs, .pc]
  | .ldB _ | .ldMemVx _ => [.memory, .pc]
  | .ldVxK _ => [.wait, .pc]
  | .ldDtVx _ => [.dt, .pc]
  | .ldStVx _ => [.st, .pc]

theorem Completes.frame {i : Instr} {s t : State} (h : Completes i s t) : SameExcept (writes i) s t := by
  cases h with
  | unchecked hc h =>
    cases i <;> cases hc <;> (obtain rfl := next_inj h; simp [SameExcept, writes])
  | _ => simp [SameExcept, writes]

/-- An instruction without a check changes what it writes and nothing else. -/
theorem exec_frame {i : Instr} {s t : State} (hc : hasCheck i = false) (h : exec i s = .next t) :
    SameExcept (writes i) s t :=
  (Completes.unchecked hc h).frame

theorem sameExcept_mono {parts parts' : List Part} {s t : State} (hsub : parts ⊆ parts') (h : SameExcept parts s t) :
    SameExcept parts' s t := by
  obtain ⟨hregs, hindex, hpc, hstack, hdt, hst, hdisplay, hkey, hwait, hbeeping, hfault, hmemory, hevents, hparams,
    hdraws, hcycles, hscript⟩ := h
  exact ⟨fun hn => hregs (hn <| hsub ·), fun hn => hindex (hn <| hsub ·), fun hn => hpc (hn <| hsub ·),
    fun hn => hstack (hn <| hsub ·), fun hn => hdt (hn <| hsub ·), fun hn => hst (hn <| hsub ·),
    fun hn => hdisplay (hn <| hsub ·), fun hn => hkey (hn <| hsub ·), fun hn => hwait (hn <| hsub ·),
    fun hn => hbeeping (hn <| hsub ·), fun hn => hfault (hn <| hsub ·), fun hn => hmemory (hn <| hsub ·),
    fun hn => hevents (hn <| hsub ·), fun hn => hparams (hn <| hsub ·), fun hn => hdraws (hn <| hsub ·),
    fun hn => hcycles (hn <| hsub ·), fun hn => hscript (hn <| hsub ·)⟩

/-- The parts that some instruction may change; the other five and the fault record are in no list. -/
theorem writes_subset (i : Instr) :
    writes i ⊆ [.regs, .pc, .index, .stack, .dt, .st, .display, .events, .wait, .memory, .draws] := by
  cases i <;> simp [writes]

/-- The fault record, the parameters and the driver's own fields are the same. -/
structure SameDriver (s t : State) : Prop where
  fault : t.fault = s.fault
  params : t.params = s.params
  cyclesLeft : t.cyclesLeft = s.cyclesLeft
  script : t.script = s.script

theorem Completes.sameDriver {i : Instr} {s t : State} (h : Completes i s t) : SameDriver s t := by
  obtain ⟨-, -, -, -, -, -, -, -, -, -, hfault, -, -, hparams, -, hcycles, hscript⟩ :=
    sameExcept_mono (writes_subset i) h.frame
  exact ⟨hfault (by decide), hparams (by decide), hcycles (by decide), hscript (by decide)⟩

/-! ### Where an instruction that completes leaves `pc` (R88) -/

theorem Completes.pc_of_jump {i : Instr} {nnn : Addr} {s t : State} (h : Completes i s t)
    (hi : i = .jp nnn ∨ i = .call nnn) : t.pc = addrOperand nnn := by
  obtain rfl | rfl := hi
  · obtain rfl := next_inj h.exec_eq
    rfl
  · cases h with
    | call => rfl
    | unchecked hc => cases hc

theorem Completes.pc_of_ret {s t : State} (h : Completes .ret s t) :
    ∃ below a, s.stack = below ++ [a] ∧ t.stack = below ∧ t.pc = a + 2 := by
  cases h with
  | ret h => exact ⟨_, _, h, rfl, rfl⟩
  | unchecked hc => cases hc

theorem Completes.pc_of_advance {i : Instr} {s t : State} (h : Completes i s t) (hr : i ≠ .ret)
    (hj : ∀ nnn, i ≠ .jp nnn ∧ i ≠ .call nnn) : t.pc = s.pc + if skipTaken i s then 4 else 2 := by
  cases h with
  | ret => exact absurd rfl hr
  | call => exact absurd rfl (hj _).2
  | unchecked hc h =>
    cases i
    case jp nnn => exact absurd rfl (hj nnn).1
    case skp x => obtain rfl := next_inj h; rw [skipTaken, ← keyMatches_eq]; rfl
    case sknp x => obtain rfl := next_inj h; rw [skipTaken, bne, ← keyMatches_eq]; rfl
    all_goals cases hc
    all_goals obtain rfl := next_inj h; rfl
  | _ => rfl

/-- Every instruction is a jump or call, a return, or one that advances. -/
theorem pc_class (i : Instr) :
    (∃ nnn, i = .jp nnn ∨ i = .call nnn) ∨ i = .ret ∨ (i ≠ .ret ∧ ∀ nnn, i ≠ .jp nnn ∧ i ≠ .call nnn) := by
  cases i <;> simp

/-! ### What an instruction that completes does to memory and to the stack -/

theorem Completes.mem_cases {i : Instr} {s t : State} (h : Completes i s t) :
    t.mem = s.mem ∨ ∃ bytes : List Byte, s.index.toNat + bytes.length ≤ 4096 ∧
      t.mem = s.mem.writeBytes s.index.toNat bytes := by
  cases h with
  | ldB h => exact .inr ⟨bcdDigits _, h, rfl⟩
  | ldMemVx h => exact .inr ⟨regBlock _ _, by simpa using h, rfl⟩
  | unchecked hc h => cases i <;> cases hc <;> (obtain rfl := next_inj h; exact .inl rfl)
  | _ => exact .inl rfl

theorem Completes.stack_cases {i : Instr} {s t : State} (h : Completes i s t) :
    t.stack = s.stack ∨ (s.params.stackLimit ≠ some s.stack.length ∧ t.stack = s.stack ++ [s.pc]) ∨
      ∃ a, s.stack = t.stack ++ [a] := by
  cases h with
  | ret h => exact .inr (.inr ⟨_, h⟩)
  | call h => exact .inr (.inl ⟨h, rfl⟩)
  | unchecked hc h => cases i <;> cases hc <;> (obtain rfl := next_inj h; exact .inl rfl)
  | _ => exact .inl rfl

end Sys2Proof.Execution
end

section
/-! PROOFS. The whole-machine rules over the outcomes of an instruction: who writes each part of the state, who changes
`VF` (R14), and where `pc` goes (R88), also on unbounded integers under the invariant (R15). -/

namespace Sys2Proof.Execution

open Sys2Proof.Machine

/-! ### Each part has its writers -/

theorem index_mem_writes {i : Instr} (h : Part.index ∈ writes i) :
    (∃ nnn, i = .ldI nnn) ∨ (∃ x, i = .addI x) ∨ ∃ x, i = .ldF x := by
  cases i <;> simp [writes] at h ⊢

theorem stack_mem_writes {i : Instr} (h : Part.stack ∈ writes i) : (∃ nnn, i = .call nnn) ∨ i = .ret := by
  cases i <;> simp [writes] at h ⊢

theorem dt_mem_writes {i : Instr} (h : Part.dt ∈ writes i) : ∃ x, i = .ldDtVx x := by
  cases i <;> simp [writes] at h ⊢

theorem st_mem_writes {i : Instr} (h : Part.st ∈ writes i) : ∃ x, i = .ldStVx x := by
  cases i <;> simp [writes] at h ⊢

theorem wait_mem_writes {i : Instr} (h : Part.wait ∈ writes i) : ∃ x, i = .ldVxK x := by
  cases i <;> simp [writes] at h ⊢

theorem draws_mem_writes {i : Instr} (h : Part.draws ∈ writes i) : ∃ x nn, i = .rnd x nn := by
  cases i <;> simp [writes] at h ⊢

theorem display_mem_writes {i : Instr} (h : Part.display ∈ writes i ∨ Part.events ∈ writes i) :
    i = .cls ∨ ∃ x y n, i = .drw x y n := by
  cases i <;> simp [writes] at h ⊢

theorem memory_mem_writes {i : Instr} (h : Part.memory ∈ writes i) : (∃ x, i = .ldB x) ∨ ∃ x, i = .ldMemVx x := by
  cases i <;> simp [writes] at h ⊢

theorem hasCheck_cases {i : Instr} (h : hasCheck i = true) :
    i = .ret ∨ (∃ nnn, i = .call nnn) ∨ (∃ x y n, i = .drw x y n) ∨ (∃ x, i = .ldB x) ∨ (∃ x, i = .ldMemVx x) ∨
      ∃ x, i = .ldVxMem x := by
  cases i <;> simp [hasCheck] at h ⊢

/-- Settles O53: an instruction that completes changes only what it writes, and one that raises a fault has a check
and changes the fault record alone. -/
theorem eachPartHasItsWriters : Obligations.EachPartHasItsWriters := by
  intro i s t h
  rcases exec_cases h with hc | ⟨hcheck, c, rfl⟩
  · have hframe := hc.frame
    refine ⟨sameExcept_mono (List.Subset.trans (writes_subset i) (by simp)) hframe, ?_⟩
    obtain ⟨-, hindex, -, hstack, hdt, hst, hdisplay, -, hwait, -, -, hmemory, hevents, -, hdraws, -, -⟩ := hframe
    exact ⟨fun hne => index_mem_writes (not_imp_comm.1 hindex hne),
      fun hne => stack_mem_writes (not_imp_comm.1 hstack hne),
      fun hne => dt_mem_writes (not_imp_comm.1 hdt hne), fun hne => st_mem_writes (not_imp_comm.1 hst hne),
      fun hne => wait_mem_writes (not_imp_comm.1 hwait hne), fun hne => draws_mem_writes (not_imp_comm.1 hdraws hne),
      fun hne => display_mem_writes (hne.imp (not_imp_comm.1 hdisplay) (not_imp_comm.1 hevents)),
      fun ⟨a, ha⟩ => memory_mem_writes (not_imp_comm.1 hmemory fun hs => ha (hs a)),
      fun hne => absurd hc.sameDriver.fault hne⟩
  · simpa [SameExcept] using fun _ => hasCheck_cases hcheck

/-! ### Who changes `VF` -/

theorem eq_VF_of_readV_writeV_ne {s : State} {x : Reg} {b : Byte} (h : (s.writeV x b).readV VF ≠ s.readV VF) :
    x = VF := by
  by_contra hx
  simp [Ne.symm hx] at h

theorem eq_VF_of_readV_loadBlock_ne {s : State} {x : Reg} (h : (loadBlock s x)[VF] ≠ s.readV VF) : x = VF := by
  rw [loadBlock_getElem] at h
  have hle : VF ≤ x := by
    by_contra hx
    simp [hx] at h
  exact le_antisymm (Fin.le_last x) hle

/-- Settles O54: a fault and an instruction that does not list the registers leave them all alone; of the others, the
ones that do not write the flag write one register, which is `VF` if `VF` changed, or load a block that reaches it. -/
theorem onlyFlagWritersAndDestinationsChangeVF : Obligations.OnlyFlagWritersAndDestinationsChangeVF := by
  intro i s t h hne
  rcases exec_cases h with hc | ⟨-, c, rfl⟩
  · cases hc with
    | ret | call | ldB | ldMemVx => exact absurd rfl hne
    | drw => simp
    | ldVxMem =>
      obtain rfl := eq_VF_of_readV_loadBlock_ne hne
      simp
    | unchecked hcheck h =>
      cases i
      case ldImm | addImm | rnd | ldReg | and | xor | ldVxDt =>
        obtain rfl := next_inj h
        obtain rfl := eq_VF_of_readV_writeV_ne hne
        simp
      case addReg | sub | subn | shr | shl | addI => simp
      all_goals cases hcheck
      all_goals
        obtain rfl := next_inj h
        exact absurd rfl hne
  · exact absurd rfl hne

/-! ### Where `pc` goes -/

/-- An instruction that leaves no fault record has completed. -/
theorem completes_of_fault_eq_none {i : Instr} {s t : State} (h : exec i s = .next t) (hf : t.fault = none) :
    Completes i s t := by
  refine (exec_cases h).resolve_right ?_
  rintro ⟨-, c, rfl⟩
  cases hf

theorem Completes.pc_toNat_of_jump {i : Instr} {nnn : Addr} {s t : State} (h : Completes i s t)
    (hi : i = .jp nnn ∨ i = .call nnn) : t.pc.toNat = nnn.toNat := by
  rw [h.pc_of_jump hi, ControlFlow.addrOperand_toNat]

/-- Settles O55: an instruction that completes follows R88's table, and a fault leaves `pc` alone. -/
theorem pcAdvancesByTheTable : Obligations.PcAdvancesByTheTable := by
  intro i s t h
  refine ⟨fun hf => ?_, fun hs ht => ?_⟩
  · have hc := completes_of_fault_eq_none h hf
    refine ⟨fun nnn => hc.pc_toNat_of_jump, ?_, hc.pc_of_advance⟩
    rintro rfl
    obtain ⟨below, a, hstack, -, hpc⟩ := hc.pc_of_ret
    exact ⟨a, by simp [hstack], hpc⟩
  · rcases exec_cases h with hc | ⟨-, c, rfl⟩
    · exact absurd (hc.sameDriver.fault.trans hs) ht
    · rfl

/-! ### `pc` on unbounded integers, within the bounds of the invariant -/

/-- The largest address of a call and of a fetch leaves room for the largest advance. -/
theorem advance_toNat {p : Word} (h : p.toNat ≤ 0xFFE) (c : Bool) :
    (p + if c then 4 else 2).toNat = p.toNat + if c then 4 else 2 := by
  cases c <;> simp <;> omega

theorem Completes.pc_toNat_of_ret {s t : State} (h : Completes .ret s t) (hs : s.addressesBounded) :
    ∃ a, s.stack.getLast? = some a ∧ a.toNat ≤ 0xFFE ∧ t.pc.toNat = a.toNat + 2 := by
  obtain ⟨below, a, hstack, -, hpc⟩ := h.pc_of_ret
  have ha : a.toNat ≤ 0xFFE := hs.2 a (by simp [hstack])
  exact ⟨a, by simp [hstack], ha, by rw [hpc]; exact advance_toNat ha false⟩

theorem Completes.pc_toNat_of_advance {i : Instr} {s t : State} (h : Completes i s t) (hr : i ≠ .ret)
    (hj : ∀ nnn, i ≠ .jp nnn ∧ i ≠ .call nnn) (hpc : s.pc.toNat + 2 ≤ 4096) :
    t.pc.toNat = s.pc.toNat + if skipTaken i s then 4 else 2 := by
  rw [h.pc_of_advance hr hj, advance_toNat (by omega)]

theorem Completes.pc_le {i : Instr} {s t : State} (h : Completes i s t) (hs : s.addressesBounded)
    (hpc : s.pc.toNat + 2 ≤ 4096) : t.pc.toNat ≤ 0x1002 := by
  obtain ⟨nnn, hi⟩ | rfl | ⟨hr, hj⟩ := pc_class i
  · have := h.pc_toNat_of_jump hi
    omega
  · obtain ⟨a, -, ha, hpc⟩ := h.pc_toNat_of_ret hs
    omega
  · rw [h.pc_toNat_of_advance hr hj hpc]
    split <;> omega

/-- Settles O60: an accepted fetch and a return address are at most `0xFFE`, so no advance from them wraps. -/
theorem pcNeverWraps : Obligations.PcNeverWraps := by
  intro s t i hs hpc h hf
  have hc := completes_of_fault_eq_none h hf
  refine ⟨hc.pc_le hs.addresses hpc, fun nnn => hc.pc_toNat_of_jump, ?_, fun hr hj => hc.pc_toNat_of_advance hr hj hpc⟩
  rintro rfl
  obtain ⟨a, hlast, -, ha⟩ := hc.pc_toNat_of_ret hs.addresses
  exact ⟨a, hlast, ha⟩

end Sys2Proof.Execution
end

section
/-! PROOFS. The cycle and the step (45_execution_cycle.md, 60_exceptions.md): a core that has not faulted has a next
state, a fault leaves the rest of the state alone (R96), and every step keeps the invariant. -/

namespace Sys2Proof.ExecutionCycle

open Sys2Proof.Machine
open Sys2Proof.Execution

/-! ### The cycle -/

/-- A cycle raises a fault alone, or runs an instruction that completes. -/
theorem cycle_outcome {s t : State} (h : cycle s = .next t) :
    (∃ c, t = s.raise c) ∨
    (s.pc.toNat + 2 ≤ 4096 ∧ ∃ i, decode (s.readByte s.pc.toNat) (s.readByte (s.pc.toNat + 1)) = .ok i ∧
      Completes i s t) := by
  obtain ⟨-, hc⟩ | ⟨-, op, -, -, hc⟩ | ⟨hpc, i, hd, hc⟩ := cycle_cases s
  · exact .inl ⟨_, next_inj (hc.symm.trans h)⟩
  · exact .inl ⟨_, next_inj (hc.symm.trans h)⟩
  · exact (exec_cases (hc.symm.trans h)).elim (fun hi => .inr ⟨hpc, i, hd, hi⟩) (fun hf => .inl hf.2)

theorem cycle_total (s : State) : ∃ t, cycle s = .next t := by
  obtain ⟨-, hc⟩ | ⟨-, op, -, -, hc⟩ | ⟨-, i, -, hc⟩ := cycle_cases s
  · exact ⟨_, hc⟩
  · exact ⟨_, hc⟩
  · obtain ⟨t, ht, -⟩ := exec_outcome i s
    exact ⟨t, hc.trans ht⟩

theorem cycleSlot_total (s : State) : ∃ t, cycleSlot s = .next t := by
  obtain ⟨u, hu⟩ := cycle_total s
  exact ⟨_, cycleSlot_of_cycle hu⟩

/-- A cycle changes no parameter, no cycle count and no script. -/
theorem cycle_params {s t : State} (h : cycle s = .next t) : t.params = s.params := by
  obtain ⟨c, rfl⟩ | ⟨-, i, -, hi⟩ := cycle_outcome h
  · rfl
  · exact hi.sameDriver.params

theorem cycle_cyclesLeft {s t : State} (h : cycle s = .next t) : t.cyclesLeft = s.cyclesLeft := by
  obtain ⟨c, rfl⟩ | ⟨-, i, -, hi⟩ := cycle_outcome h
  · rfl
  · exact hi.sameDriver.cyclesLeft

/-- A cycle that faults has raised a fault and done nothing else. -/
theorem eq_raise_of_cycle {s t : State} {r : FaultRecord} (h : cycle s = .next t) (hs : s.fault = none)
    (ht : t.fault = some r) : r.pc = s.pc ∧ t = { s with fault := some r } := by
  obtain ⟨c, rfl⟩ | ⟨-, i, -, hi⟩ := cycle_outcome h
  · cases ht
    exact ⟨rfl, rfl⟩
  · rw [hi.sameDriver.fault, hs] at ht
    cases ht

/-- Settles O12: the record a cycle raises is all it writes. -/
theorem faultingCycleWritesOnlyTheRecord : Obligations.FaultingCycleWritesOnlyTheRecord := fun _ _ _ hs h =>
  eq_raise_of_cycle h hs

/-! ### The step -/

theorem step_eq_move {s : State} (h : s.fault = none) : step s = move s := by
  unfold step
  rw [h]

theorem startTick_total (s : State) : ∃ t, startTick s = .next t := by
  unfold startTick
  dsimp only
  split_ifs
  · exact ⟨_, rfl⟩
  · exact cycleSlot_total _

theorem betweenTicks_total (s : State) : ∃ t, betweenTicks s = .next t := by
  unfold betweenTicks
  split
  · exact startTick_total _
  · exact ⟨_, rfl⟩
  · exact ⟨_, rfl⟩

theorem move_total (s : State) : ∃ t, move s = .next t := by
  unfold move
  split_ifs
  · exact betweenTicks_total s
  · exact cycleSlot_total s

/-- Settles O10: no outcome of an instruction is a stop, so no cycle and no move stops. -/
theorem onlyAFaultedCoreStops : Obligations.OnlyAFaultedCoreStops := by
  refine ⟨fun i s => ?_, fun s hs => ?_⟩
  · obtain ⟨t, ht, -⟩ := exec_outcome i s
    exact ⟨t, ht⟩
  · rw [step_eq_move hs]
    exact move_total s

theorem afterCycle_of_fault {t : State} (h : t.fault ≠ none) : t.afterCycle = t.withCycles 0 := by
  simp [State.afterCycle, Option.isSome_iff_ne_none, h]

theorem afterCycle_of_wait {t : State} (hf : t.fault = none) (hw : t.wait ≠ none) :
    t.afterCycle = t.beepEdge.withCycles 0 := by
  simp [State.afterCycle, Option.isSome_iff_ne_none, hf, hw]

theorem afterCycle_of_running {t : State} (hf : t.fault = none) (hw : t.wait = none) :
    t.afterCycle = t.beepEdge.withCycles (t.cyclesLeft - 1) := by
  simp [State.afterCycle, hf, hw]

/-- Settles O9: the three cases of what follows a cycle. -/
theorem tickEndsOnFaultOrWait : Obligations.TickEndsOnFaultOrWait := fun _ =>
  ⟨afterCycle_of_fault, afterCycle_of_wait, afterCycle_of_running⟩

/-- Settles O13: only a cycle can fault, so the step is the fault of a cycle, in the state the step began with or, at
the start of a tick, in that state with its timers counted down and the host's Tick taken. -/
theorem faultingStepKeepsTheState : Obligations.FaultingStepKeepsTheState := by
  intro s t r hs h ht
  obtain ⟨-, hcase⟩ := step_cases h
  rw [State.takeOp_snd] at hcase
  obtain ⟨hn, u, hu, rfl⟩ | ⟨-, k, -, rfl⟩ | ⟨-, -, rfl⟩ | ⟨-, -, -, rfl⟩ | ⟨hn, -, -, -, u, hu, rfl⟩ := hcase
  · rw [State.afterCycle_fault] at ht
    obtain ⟨hpc, hfaulted⟩ := eq_raise_of_cycle hu hs ht
    rw [afterCycle_of_fault (by simp [ht]), hfaulted]
    exact ⟨hpc, fun _ => rfl, fun h0 => absurd h0 (by omega)⟩
  · simp [hs] at ht
  · simp [State.release, hs] at ht
  · simp [hs] at ht
  · rw [State.afterCycle_fault] at ht
    obtain ⟨hpc, hfaulted⟩ := eq_raise_of_cycle hu hs ht
    rw [afterCycle_of_fault (by simp [ht]), hfaulted]
    exact ⟨hpc, fun h0 => absurd h0 (by omega), fun _ => by simp [State.withCycles, State.decrementTimers, hn]⟩

/-! ### The invariant -/

@[simp] theorem afterCycle_mem (s : State) : s.afterCycle.mem = s.mem := by
  unfold State.afterCycle; split_ifs <;> simp

@[simp] theorem afterCycle_pc (s : State) : s.afterCycle.pc = s.pc := by
  unfold State.afterCycle; split_ifs <;> simp

@[simp] theorem afterCycle_stack (s : State) : s.afterCycle.stack = s.stack := by
  unfold State.afterCycle; split_ifs <;> simp

@[simp] theorem afterCycle_params (s : State) : s.afterCycle.params = s.params := by
  unfold State.afterCycle; split_ifs <;> simp

@[simp] theorem afterCycle_wait (s : State) : s.afterCycle.wait = s.wait := by
  unfold State.afterCycle; split_ifs <;> simp

/-- The part of the invariant that does not speak of the tick in progress. -/
structure Sound (s : State) : Prop where
  memory : s.mem.wf = true
  addresses : s.addressesBounded
  stack : s.stackBounded

/-- It reads four parts of the state. -/
theorem Sound.congr {s t : State} (h : Sound s) (hmem : t.mem = s.mem) (hpc : t.pc = s.pc)
    (hstack : t.stack = s.stack) (hparams : t.params = s.params) : Sound t where
  memory := hmem ▸ h.memory
  addresses := by unfold State.addressesBounded; rw [hpc, hstack]; exact h.addresses
  stack := by unfold State.stackBounded; rw [hparams, hstack]; exact h.stack

theorem Sound.afterCycle {s : State} (h : Sound s) : Sound s.afterCycle :=
  h.congr (by simp) (by simp) (by simp) (by simp)

theorem Sound.press {s : State} (h : Sound s) (k : Key) : Sound (s.press k) := by
  unfold State.press
  split
  · exact h.congr rfl rfl rfl rfl
  · exact h.congr rfl rfl rfl rfl

/-- A call below the limit pushes the address it was fetched from; nothing else lengthens the stack. -/
theorem Sound.completes {i : Instr} {s t : State} (hs : Sound s) (hpc : s.pc.toNat + 2 ≤ 4096)
    (h : Completes i s t) : Sound t where
  memory := by
    obtain hmem | ⟨bytes, hlen, hmem⟩ := h.mem_cases
    · exact hmem ▸ hs.memory
    · exact hmem ▸ Memory.wf_writeBytes hs.memory hlen
  addresses := by
    refine ⟨h.pc_le hs.addresses hpc, fun a ha => ?_⟩
    obtain ⟨-, hold⟩ := hs.addresses
    obtain hstack | ⟨-, hstack⟩ | ⟨b, hstack⟩ := h.stack_cases
    · exact hold a (hstack ▸ ha)
    · rw [hstack, List.mem_append, List.mem_singleton] at ha
      obtain ha | rfl := ha
      · exact hold a ha
      · omega
    · exact hold a (by simp [hstack, ha])
  stack := by
    intro n hn
    have hn' : s.params.stackLimit = some n := h.sameDriver.params ▸ hn
    have hold := hs.stack n hn'
    obtain hstack | ⟨hlimit, hstack⟩ | ⟨b, hstack⟩ := h.stack_cases
    · rwa [hstack]
    · have hne : s.stack.length ≠ n := fun he => hlimit (by rw [hn', he])
      simp only [hstack, List.length_append, List.length_singleton]
      omega
    · simp only [hstack, List.length_append, List.length_singleton] at hold
      omega

theorem Sound.cycle {s t : State} (hs : Sound s) (h : cycle s = .next t) : Sound t := by
  obtain ⟨c, rfl⟩ | ⟨hpc, i, -, hi⟩ := cycle_outcome h
  · exact hs.congr rfl rfl rfl rfl
  · exact hs.completes hpc hi

theorem driverConsistent_of_cyclesLeft_eq_zero {s : State} (h : s.cyclesLeft = 0) : s.driverConsistent :=
  ⟨fun _ => h, fun _ => h, by omega⟩

/-- A fault and a wait end the tick, and otherwise one cycle less is left. -/
theorem driverConsistent_afterCycle {s : State} (h : s.cyclesLeft ≤ s.ipt) : s.afterCycle.driverConsistent := by
  by_cases hf : s.fault = none
  · by_cases hw : s.wait = none
    · rw [afterCycle_of_running hf hw]
      refine ⟨by simp [hw], by simp [hf], ?_⟩
      have hipt : (s.beepEdge.withCycles (s.cyclesLeft - 1)).ipt = s.ipt := by simp [State.ipt]
      rw [hipt, State.withCycles_cyclesLeft]
      omega
    · rw [afterCycle_of_wait hf hw]
      exact driverConsistent_of_cyclesLeft_eq_zero rfl
  · rw [afterCycle_of_fault hf]
    exact driverConsistent_of_cyclesLeft_eq_zero rfl

theorem inv_of_sound {s : State} (h : Sound s) (hd : s.driverConsistent) : s.Inv :=
  ⟨h.memory, h.addresses, h.stack, hd⟩

/-- A turn of the tick's loop keeps the invariant, given as many cycles as it may have. -/
theorem inv_afterCycle {s u : State} (h : cycle s = .next u) (hs : Sound s) (hn : s.cyclesLeft ≤ s.ipt) :
    u.afterCycle.Inv := by
  have hipt : u.ipt = s.ipt := by simp [State.ipt, cycle_params h]
  exact inv_of_sound (hs.cycle h).afterCycle
    (driverConsistent_afterCycle (by rw [hipt, cycle_cyclesLeft h]; exact hn))

/-- Settles O57: a step is a turn of the tick's loop, or a host operation between ticks that leaves memory, addresses
and stack alone. -/
theorem stepKeepsTheInvariant : Obligations.StepKeepsTheInvariant := by
  intro s t hs h
  have hsound : Sound s := ⟨hs.memory, hs.addresses, hs.stack⟩
  have hrest : Sound { s with script := s.script.tail } := hsound.congr rfl rfl rfl rfl
  obtain ⟨-, hcase⟩ := step_cases h
  rw [State.takeOp_snd] at hcase
  obtain ⟨-, u, hu, rfl⟩ | ⟨hn, k, -, rfl⟩ | ⟨hn, -, rfl⟩ | ⟨hn, -, -, rfl⟩ | ⟨-, -, -, -, u, hu, rfl⟩ := hcase
  · exact inv_afterCycle hu hsound hs.driver.2.2
  · refine inv_of_sound (hrest.press k) (driverConsistent_of_cyclesLeft_eq_zero ?_)
    unfold State.press
    split <;> exact hn
  · exact inv_of_sound (hrest.congr rfl rfl rfl rfl) (driverConsistent_of_cyclesLeft_eq_zero hn)
  · exact inv_of_sound (hrest.congr rfl rfl rfl rfl) (driverConsistent_of_cyclesLeft_eq_zero hn)
  · exact inv_afterCycle hu (hrest.congr rfl rfl rfl rfl) le_rfl

/-- Settles O56: each part is read off the reset state. -/
theorem invariantsHoldAtReset : Obligations.InvariantsHoldAtReset :=
  ⟨inv_of_sound ⟨rfl, ⟨by decide, by simp [State.reset]⟩, by intro n hn; cases hn⟩
    (driverConsistent_of_cyclesLeft_eq_zero rfl), rfl, rfl⟩

end Sys2Proof.ExecutionCycle
end

section
/-! PROOFS. The cycle and the step: what they run (R87, R90, R96, R101), and how a key wait starts and ends (R91). -/

namespace Sys2Proof.ExecutionCycle

open Sys2Proof.Machine
open Sys2Proof.Execution

/-! ### What a cycle and a step run -/

/-- Settles O6: the fetch is accepted, the decoder fails on the word, and the fault entry writes the record alone. -/
theorem undecodableWordFaults : Obligations.UndecodableWordFaults := by
  intro s op hpc hop hbad
  obtain ⟨hout, -⟩ | ⟨-, op', hop', -, hc⟩ | ⟨-, i, hd, -⟩ := cycle_cases s
  · omega
  · obtain rfl := hop.symm.trans hop'
    exact ⟨hc, rfl, rfl⟩
  · rw [decode, hop] at hd
    exact absurd hd (hbad i)

theorem move_eq_cycleSlot {s : State} (h : 0 < s.cyclesLeft) : move s = cycleSlot s :=
  if_neg (by omega)

theorem move_eq_startTick {s : State} (h : s.cyclesLeft = 0) (htick : s.takeOp.1 = .tick) :
    move s = startTick { s with script := s.script.tail } := by
  simp [move, h, betweenTicks, htick, State.takeOp_snd]

theorem startTick_eq_decrementTimers {s : State} (h : s.wait ≠ none ∨ s.ipt = 0) :
    startTick s = .next s.decrementTimers := by
  have hskip : (s.decrementTimers.wait.isSome || s.decrementTimers.ipt == 0) = true := by
    simpa [State.ipt, Option.isSome_iff_ne_none] using h
  exact if_pos hskip

theorem startTick_eq_cycleSlot {s : State} (hw : s.wait = none) (hn : 0 < s.ipt) :
    startTick s = cycleSlot (s.decrementTimers.withCycles s.ipt) := by
  have hrun : ¬ (s.decrementTimers.wait.isSome || s.decrementTimers.ipt == 0) = true := by
    simpa [State.ipt, hw] using Nat.pos_iff_ne_zero.1 hn
  exact if_neg hrun

/-- At bytes that decode, a turn of the tick's loop runs the instruction. -/
theorem cycleSlot_decoded {s : State} {i : Instr} (hpc : s.pc.toNat + 2 ≤ 4096)
    (hd : decode (s.readByte s.pc.toNat) (s.readByte (s.pc.toNat + 1)) = .ok i) :
    ∃ t, exec i s = .next t ∧ cycleSlot s = .next t.afterCycle := by
  obtain ⟨t, ht, -⟩ := exec_outcome i s
  exact ⟨t, ht, cycleSlot_of_cycle ((cycle_decoded hpc hd).trans ht)⟩

/-- Settles O7: in a tick a step is a turn of the tick's loop. -/
theorem stepRunsTheDecodedInstruction : Obligations.StepRunsTheDecodedInstruction := by
  intro s i hs hn hpc hd
  rw [step_eq_move hs, move_eq_cycleSlot hn]
  exact cycleSlot_decoded hpc hd

/-- Settles O8: the step that starts a tick is a turn of the tick's loop on the state with its timers counted down and
IPT cycles to run, which fetches what the state before it would. -/
theorem tickStartRunsTheDecodedInstruction : Obligations.TickStartRunsTheDecodedInstruction := by
  intro s i hs hn htick hw hipt hpc hd
  rw [step_eq_move hs, move_eq_startTick hn htick,
    startTick_eq_cycleSlot (s := { s with script := s.script.tail }) hw hipt]
  exact cycleSlot_decoded hpc (by simpa using hd)

/-- Settles O11: a step and a host operation look at the fault record first. -/
theorem faultedCoreHasNoMove : Obligations.FaultedCoreHasNoMove := by
  intro s r hs
  exact ⟨by simp only [step, hs], fun op => by simp only [hostOp, hs]⟩

/-! ### The wait for a key -/

/-- A cycle changes the pending wait only by an instruction that completes and writes it. -/
theorem cycle_wait {s t : State} (h : cycle s = .next t) :
    t.wait = s.wait ∨ ∃ x, t.wait = some x ∧
      decode (s.readByte s.pc.toNat) (s.readByte (s.pc.toNat + 1)) = .ok (.ldVxK x) := by
  obtain ⟨c, rfl⟩ | ⟨-, i, hd, hi⟩ := cycle_outcome h
  · exact .inl rfl
  · by_cases hw : Part.wait ∈ writes i
    · obtain ⟨x, rfl⟩ := wait_mem_writes hw
      obtain rfl := next_inj hi.exec_eq
      exact .inr ⟨x, rfl, hd⟩
    · obtain ⟨-, -, -, -, -, -, -, -, hwait, -⟩ := hi.frame
      exact .inl (hwait hw)

theorem press_of_no_wait {s : State} (h : s.wait = none) (k : Key) : s.press k = s.writeKey (some k) := by
  simp only [State.press, h]

theorem press_of_wait {s : State} {x : Reg} (h : s.wait = some x) (k : Key) :
    s.press k = ((s.writeKey (some k)).writeV x (BitVec.ofNat 8 k.val)).writeWait none := by
  simp only [State.press, h]

theorem press_wait (s : State) (k : Key) : (s.press k).wait = none := by
  unfold State.press
  split
  · assumption
  · rfl

/-- A press writes its key to the register that waits (R106). -/
theorem press_readV {s : State} {x : Reg} (h : s.wait = some x) (k : Key) : ((s.press k).readV x).toNat = k.val := by
  have hk : k.val < 2 ^ 8 := by omega
  have hreg : (s.press k).readV x = BitVec.ofNat 8 k.val := by
    rw [press_of_wait h]
    exact (State.readV_writeV _ x x _).trans (if_pos rfl)
  rw [hreg, BitVec.toNat_ofNat, Nat.mod_eq_of_lt hk]

/-- Under the invariant a step keeps the pending wait, starts one by `LD Vx, K`, or ends one by a press. -/
theorem step_wait {s t : State} (hs : s.Inv) (h : step s = .next t) :
    t.wait = s.wait ∨
    (s.wait = none ∧ ∃ x, t.wait = some x ∧
      decode (s.readByte s.pc.toNat) (s.readByte (s.pc.toNat + 1)) = .ok (.ldVxK x)) ∨
    (∃ k, s.takeOp.1 = .press k ∧ t.wait = none ∧ ∀ x, s.wait = some x → (t.readV x).toNat = k.val) := by
  obtain ⟨-, hcase⟩ := step_cases h
  rw [State.takeOp_snd] at hcase
  obtain ⟨hn, u, hu, rfl⟩ | ⟨-, k, hk, rfl⟩ | ⟨-, -, rfl⟩ | ⟨-, -, -, rfl⟩ | ⟨-, -, hw, -, u, hu, rfl⟩ := hcase
  · have hw : s.wait = none := by
      by_contra hw
      have := hs.driver.1 (Option.isSome_iff_ne_none.2 hw)
      omega
    rw [afterCycle_wait]
    exact (cycle_wait hu).imp_right fun hstart => .inl ⟨hw, hstart⟩
  · exact .inr (.inr ⟨k, hk, press_wait _ k, fun x hx => press_readV (s := { s with script := s.script.tail }) hx k⟩)
  · exact .inl rfl
  · exact .inl rfl
  · rw [afterCycle_wait]
    exact (cycle_wait hu).imp_right fun hstart => .inl ⟨hw, hstart⟩

/-- Settles O46: of the three things a step does to the wait, only one starts it and only one ends it. -/
theorem waitingStartsWithGetKeyAndEndsWithPress : Obligations.WaitingStartsWithGetKeyAndEndsWithPress := by
  intro s t x hs h
  obtain hsame | ⟨hnone, y, hy, hd⟩ | ⟨k, hk, hnone, hreg⟩ := step_wait hs h
  · rw [hsame]
    exact ⟨fun h0 hx => (nomatch h0.symm.trans hx), fun hx h0 => (nomatch h0.symm.trans hx), fun hx _ => hx⟩
  · refine ⟨fun _ hx => ?_, fun hx => (nomatch hnone.symm.trans hx), fun hx => (nomatch hnone.symm.trans hx)⟩
    obtain rfl := Option.some.inj (hy.symm.trans hx)
    exact hd
  · exact ⟨fun _ hx => (nomatch hnone.symm.trans hx), fun hx _ => ⟨k, hk, hreg x hx⟩, fun _ hne => absurd hnone hne⟩

end Sys2Proof.ExecutionCycle
end

section
/-! PROOFS. Calls, returns and the key skips (41_control_flow.md, 44_keys_timers.md R79, R80). -/

namespace Sys2Proof.ControlFlow

open Sys2Proof.Machine
open Sys2Proof.Execution

/-! ### Call and return -/

/-- Settles O15: below the limit a call completes. -/
theorem callPushesItsAddress : Obligations.CallPushesItsAddress := by
  intro s nnn hlimit
  have h := Completes.call (nnn := nnn) hlimit
  exact ⟨_, h.exec_eq, rfl, addrOperand_toNat nnn, h.frame⟩

/-- Settles O16: with an entry on the stack a return completes. -/
theorem returnPopsAndResumes : Obligations.ReturnPopsAndResumes := by
  intro s below a hstack
  have h := Completes.ret hstack
  exact ⟨_, h.exec_eq, rfl, rfl, h.frame⟩

theorem exec_ret_underflows {s : State} (h : s.stack = []) : exec .ret s = .next (s.raise .stackUnderflow) := by
  obtain ⟨-, ho⟩ | ⟨below, a, hstack, -⟩ := exec_ret_cases s
  · exact ho
  · simp [h] at hstack

theorem exec_call_overflows {s : State} (nnn : Addr) (h : s.params.stackLimit = some s.stack.length) :
    exec (.call nnn) s = .next (s.raise .stackOverflow) := by
  obtain ⟨-, ho⟩ | ⟨hne, -⟩ := exec_call_cases nnn s
  · exact ho
  · exact absurd h hne

/-- Settles O17: each check fails, and the fault entry writes the record alone. -/
theorem stackFaultsWriteOnlyTheRecord : Obligations.StackFaultsWriteOnlyTheRecord := fun _ nnn =>
  ⟨fun h => ⟨exec_ret_underflows h, rfl, rfl⟩, fun h => ⟨exec_call_overflows nnn h, rfl, rfl⟩⟩

/-- Settles O18: the return pops the address that the call pushed. -/
theorem callThenReturnResumesAfterTheCall : Obligations.CallThenReturnResumesAfterTheCall := by
  intro s nnn hlimit
  have hpushed : ((s.push s.pc).jumpTo (addrOperand nnn)).stack = s.stack ++ [s.pc] := rfl
  exact ⟨_, _, (Completes.call hlimit).exec_eq, (Completes.ret hpushed).exec_eq, rfl⟩

/-! ### The key skips -/

theorem exec_skp (x : Reg) (s : State) : exec (.skp x) s = .next (s.skipIf (keyMatches s x)) := rfl

theorem exec_sknp (x : Reg) (s : State) : exec (.sknp x) s = .next (s.skipIf (!keyMatches s x)) := rfl

theorem keyMatches_iff (s : State) (x : Reg) :
    keyMatches s x = true ↔ s.key.map Fin.val = some (s.readV x).toNat := by
  rw [keyMatches_eq, beq_iff_eq]

/-- Settles O21: the test decides its condition, and a skip writes `pc` alone. -/
theorem keySkips : Obligations.KeySkips := by
  intro s x
  refine ⟨⟨_, exec_skp x s, skipIf_pc_of_iff s (keyMatches_iff s x), sameExcept_pc_skipIf s _⟩,
    ⟨_, exec_sknp x s, ?_, sameExcept_pc_skipIf s _⟩⟩
  have hnot : (!keyMatches s x) = true ↔ ¬ s.key.map Fin.val = some (s.readV x).toNat := by
    rw [← keyMatches_iff, Bool.not_eq_true', Bool.not_eq_true]
  rw [skipIf_pc_of_iff s hnot, ite_not]

end Sys2Proof.ControlFlow
end

section
/-! PROOFS. Logic, arithmetic with a flag, the shifts and the random draw (42_alu.md R65 to R72). -/

namespace Sys2Proof.Alu

open Sys2Proof.Machine
open Sys2Proof.Execution

/-! ### Logic and the random draw: one write of `Vx` -/

theorem exec_and (x y : Reg) (s : State) :
    exec (.and x y) s = .next (s.writeV x (s.readV x &&& s.readV y)).advance := rfl

theorem exec_xor (x y : Reg) (s : State) :
    exec (.xor x y) s = .next (s.writeV x (s.readV x ^^^ s.readV y)).advance := rfl

theorem exec_rnd (x : Reg) (nn : Byte) (s : State) :
    exec (.rnd x nn) s = .next (s.afterDraw.writeV x (s.randomDraw &&& nn)).advance := rfl

/-- Settles O24: the byte written is the bitwise operation, and it is the only write of a register. -/
theorem logicWorksBitwise : Obligations.LogicWorksBitwise := by
  intro s x y
  refine ⟨⟨_, exec_and x y s, fun k => ?_, regsSameExcept_writeV_advance s x _, State.advance_pc _,
      sameExcept_regs_pc_writeV_advance s x _⟩,
    ⟨_, exec_xor x y s, fun k => ?_, regsSameExcept_writeV_advance s x _, State.advance_pc _,
      sameExcept_regs_pc_writeV_advance s x _⟩⟩
  · rw [readV_writeV_advance, BitVec.getLsbD_and]
  · rw [readV_writeV_advance, BitVec.getLsbD_xor]

/-- Settles O28: the draw is the oracle's answer at the counter, which the instruction moves on. -/
theorem randomIsMaskedFreshDraw : Obligations.RandomIsMaskedFreshDraw := by
  intro s x nn
  have hdraw : (s.afterDraw.writeV x (s.randomDraw &&& nn)).advance.readV x = Config.randomByte s.draws &&& nn :=
    readV_writeV_advance s.afterDraw x _
  refine ⟨_, exec_rnd x nn s, hdraw, rfl, ?_, regsSameExcept_writeV_advance s.afterDraw x _, State.advance_pc _,
    exec_frame rfl (exec_rnd x nn s)⟩
  rintro rfl
  exact hdraw.trans BitVec.and_zero

/-! ### A value and then the flag -/

theorem exec_addReg (x y : Reg) (s : State) :
    exec (.addReg x y) s =
      .next ((s.writeV x (s.readV x + s.readV y)).writeFlag (carryOut (s.readV x) (s.readV y))).advance := rfl

theorem exec_sub (x y : Reg) (s : State) :
    exec (.sub x y) s =
      .next ((s.writeV x (s.readV x - s.readV y)).writeFlag (noBorrow (s.readV x) (s.readV y))).advance := rfl

theorem exec_subn (x y : Reg) (s : State) :
    exec (.subn x y) s =
      .next ((s.writeV x (s.readV y - s.readV x)).writeFlag (noBorrow (s.readV y) (s.readV x))).advance := rfl

section FlagLast

variable (s : State) (x : Reg) (b : Byte) (c : Bool)

theorem readV_value_of_flagLast (hx : x ≠ VF) : ((s.writeV x b).writeFlag c).advance.readV x = b := by
  simp [hx]

/-- The flag is the number 1 or 0, whatever `x` is: it is written last (D5). -/
theorem readV_VF_of_flagLast (s : State) : (s.writeFlag c).advance.readV VF = if c then 1 else 0 := by
  simp

theorem regsSameExcept_of_flagLast : RegsSameExcept [x, VF] s ((s.writeV x b).writeFlag c).advance := by
  intro k hk
  simp only [List.mem_cons, List.not_mem_nil, or_false, not_or] at hk
  simp [hk.1, hk.2]

end FlagLast

theorem flag_toNat (p : Prop) [Decidable p] : (if decide p then 1 else 0 : Byte).toNat = if p then 1 else 0 := by
  by_cases h : p <;> simp [h]

/-- Settles O25: the sum of two bytes is the sum modulo 256, and the flag is whether it passes 255. -/
theorem addRegisterSetsCarry : Obligations.AddRegisterSetsCarry := by
  intro s x y
  refine ⟨_, exec_addReg x y s, fun hx => ?_, ?_, regsSameExcept_of_flagLast s x _ _, State.advance_pc _,
    exec_frame rfl (exec_addReg x y s)⟩
  · rw [readV_value_of_flagLast s x _ _ hx, BitVec.toNat_add]
  · rw [readV_VF_of_flagLast, carryOut, flag_toNat]

/-- The difference of two bytes is the difference of their numbers modulo 256. -/
theorem sub_toNat (a b : Byte) : ((a - b).toNat : Int) = ((a.toNat : Int) - b.toNat) % 256 := by
  rw [BitVec.toNat_sub]
  omega

/-- Settles O26: each writes a difference of two bytes, and the flag is whether it is not negative. -/
theorem subtractionsSetNoBorrow : Obligations.SubtractionsSetNoBorrow := by
  intro s x y
  refine ⟨⟨_, exec_sub x y s, fun hx => ?_, ?_, regsSameExcept_of_flagLast s x _ _, State.advance_pc _,
      exec_frame rfl (exec_sub x y s)⟩,
    ⟨_, exec_subn x y s, fun hx => ?_, ?_, regsSameExcept_of_flagLast s x _ _, State.advance_pc _,
      exec_frame rfl (exec_subn x y s)⟩⟩
  · rw [readV_value_of_flagLast s x _ _ hx, sub_toNat]
  · rw [readV_VF_of_flagLast, noBorrow, flag_toNat]
  · rw [readV_value_of_flagLast s x _ _ hx, sub_toNat]
  · rw [readV_VF_of_flagLast, noBorrow, flag_toNat]

/-! ### The flag and then a shift -/

theorem exec_shr (x y : Reg) (s : State) :
    exec (.shr x y) s = .next ((s.writeFlag (lowBit (s.readV x))).writeV x
      ((s.writeFlag (lowBit (s.readV x))).readV x >>> 1)).advance := rfl

theorem exec_shl (x y : Reg) (s : State) :
    exec (.shl x y) s = .next ((s.writeFlag (highBit (s.readV x))).writeV x
      ((s.writeFlag (highBit (s.readV x))).readV x <<< 1)).advance := rfl

theorem flag_lowBit_toNat (a : Byte) : (if lowBit a then 1 else 0 : Byte).toNat = a.toNat % 2 := by
  rw [lowBit, BitVec.getLsbD, Nat.testBit_zero, flag_toNat]
  split <;> omega

theorem flag_highBit_toNat (a : Byte) : (if highBit a then 1 else 0 : Byte).toNat = a.toNat / 128 := by
  rw [highBit, BitVec.getLsbD, Nat.testBit_eq_decide_div_mod_eq, flag_toNat]
  have := a.isLt
  split <;> omega

theorem shiftRight_toNat (a : Byte) : (a >>> 1).toNat = a.toNat / 2 := by
  rw [BitVec.toNat_ushiftRight, Nat.shiftRight_eq_div_pow]

theorem shiftLeft_toNat (a : Byte) : (a <<< 1).toNat = a.toNat * 2 % 256 := by
  rw [BitVec.toNat_shiftLeft, Nat.shiftLeft_eq]

section FlagFirst

variable (s : State) (x : Reg) (b : Byte) (c : Bool)

theorem readV_VF_of_flagFirst (hx : x ≠ VF) : ((s.writeFlag c).writeV x b).advance.readV VF = if c then 1 else 0 := by
  simp [Ne.symm hx]

theorem regsSameExcept_of_flagFirst : RegsSameExcept [x, VF] s ((s.writeFlag c).writeV x b).advance := by
  intro k hk
  simp only [List.mem_cons, List.not_mem_nil, or_false, not_or] at hk
  simp [hk.1, hk.2]

end FlagFirst

/-- Settles O27: the flag is the bit moved out; the shift is of `Vx` as it was, but of the flag where `Vx` is `VF`. -/
theorem shiftsMoveOneBitOut : Obligations.ShiftsMoveOneBitOut := by
  intro s x y
  refine ⟨⟨_, exec_shr x y s, fun hx => ⟨?_, ?_⟩, ?_, regsSameExcept_of_flagFirst s x _ _, State.advance_pc _,
      exec_frame rfl (exec_shr x y s)⟩,
    ⟨_, exec_shl x y s, fun hx => ⟨?_, ?_⟩, ?_, regsSameExcept_of_flagFirst s x _ _, State.advance_pc _,
      exec_frame rfl (exec_shl x y s)⟩⟩
  · rw [readV_writeV_advance, shiftRight_toNat, State.readV_writeFlag, if_neg hx]
  · rw [readV_VF_of_flagFirst s x _ _ hx, flag_lowBit_toNat]
  · rintro rfl
    rw [readV_writeV_advance, shiftRight_toNat, State.readV_writeFlag, if_pos rfl, flag_lowBit_toNat]
    omega
  · rw [readV_writeV_advance, shiftLeft_toNat, State.readV_writeFlag, if_neg hx]
  · rw [readV_VF_of_flagFirst s x _ _ hx, flag_highBit_toNat]
  · rintro rfl
    have := (s.readV VF).isLt
    rw [readV_writeV_advance, shiftLeft_toNat, State.readV_writeFlag, if_pos rfl, flag_highBit_toNat]
    omega

end Sys2Proof.Alu
end

section
/-! PROOFS. The index register and the accesses through it (43_index_memory.md R74 to R78), and what later fetches see
of them (20_memory.md R39). -/

namespace Sys2Proof.IndexMemory

open Sys2Proof.Machine
open Sys2Proof.Execution

/-! ### The index register -/

theorem exec_addI (x : Reg) (s : State) :
    exec (.addI x) s = .next ((s.writeIndex (s.index + (s.readV x).setWidth 16)).writeFlag
      (indexOverflow s.index (s.readV x))).advance := rfl

theorem exec_ldF (x : Reg) (s : State) :
    exec (.ldF x) s = .next (s.writeIndex (glyphAddr (s.readV x))).advance := rfl

theorem add_setWidth_toNat (a : Word) (b : Byte) : (a + b.setWidth 16).toNat = (a.toNat + b.toNat) % 65536 := by
  rw [BitVec.toNat_add, BitVec.toNat_setWidth_of_le (by decide)]

theorem regsSameExcept_writeFlag_advance (s : State) (c : Bool) : RegsSameExcept [VF] s (s.writeFlag c).advance := by
  intro k hk
  have hne : k ≠ VF := List.ne_of_not_mem_cons hk
  simp [hne]

/-- Settles O30: the sum is of 16 bits, and the flag is whether it passes 12 bits. -/
theorem addToIndexFlagsTwelveBitOverflow : Obligations.AddToIndexFlagsTwelveBitOverflow := by
  intro s x
  refine ⟨_, exec_addI x s, add_setWidth_toNat _ _, ?_, regsSameExcept_writeFlag_advance (s.writeIndex _) _,
    State.advance_pc _, exec_frame rfl (exec_addI x s)⟩
  rw [Alu.readV_VF_of_flagLast, indexOverflow, Alu.flag_toNat]

/-- The largest glyph address is far below 65536, so it does not wrap. -/
theorem glyphAddr_toNat (b : Byte) : (glyphAddr b).toNat = 0x50 + b.toNat * 5 := by
  rw [glyphAddr, BitVec.toNat_ofNat]
  omega

/-- Settles O31: the glyph address has no mask and does not wrap. -/
theorem loadFontAddress : Obligations.LoadFontAddress := fun s x =>
  ⟨_, exec_ldF x s, glyphAddr_toNat _, State.advance_pc _, sameExcept_index_pc_writeIndex_advance s _⟩

/-! ### What a store changes -/

section Store

variable (s : State) (addr : Nat) (bytes : List Byte)

theorem readByte_of_stored {k : Nat} (hk : k < bytes.length) :
    (s.writeBytes addr bytes).advance.readByte (addr + k) = bytes.getD k 0 := by
  rw [State.readByte_eq, State.advance_mem, State.writeBytes_mem, Memory.read_writeBytes, if_pos (by omega),
    Nat.add_sub_cancel_left]

theorem bytesSameOutside_of_stored : BytesSameOutside addr bytes.length s (s.writeBytes addr bytes).advance := by
  intro a ha
  rw [State.readByte_eq, State.advance_mem, State.writeBytes_mem, Memory.read_writeBytes, if_neg (by omega),
    State.readByte_eq]

end Store

/-- Byte `k` of the three that `LD B` stores is digit `k`, counted from the hundreds. -/
theorem readByte_of_digits (s : State) (addr : Nat) (b : Byte) {k : Nat} (hk : k < 3) :
    ((s.writeBytes addr (bcdDigits b)).advance.readByte (addr + k)).toNat = b.toNat / 10 ^ (2 - k) % 10 := by
  rw [readByte_of_stored _ _ _ (by rwa [bcdDigits_length]), bcdDigits_getD _ _ hk]

theorem bytesSameOutside_of_digits (s : State) (addr : Nat) (b : Byte) :
    BytesSameOutside addr 3 s (s.writeBytes addr (bcdDigits b)).advance :=
  bytesSameOutside_of_stored s addr (bcdDigits b)

/-- Settles O32: the three digits are stored from `I` on; a byte has no fourth. -/
theorem bcdStoresThreeDigits : Obligations.BcdStoresThreeDigits := by
  intro s x hrange
  have h := Completes.ldB (x := x) hrange
  have hdigit {k : Nat} (hk : k < 3) := readByte_of_digits s s.index.toNat (s.readV x) hk
  have hlt := (s.readV x).isLt
  refine ⟨_, h.exec_eq, (hdigit (k := 0) (by decide)).trans ?_, (hdigit (k := 1) (by decide)).trans ?_,
    (hdigit (k := 2) (by decide)).trans ?_, bytesSameOutside_of_digits s _ _, State.advance_pc _, h.frame⟩
  all_goals omega

/-- Settles O33: the block of `V0` to `Vx` is stored from `I` on. -/
theorem storeRegistersWritesTheBlock : Obligations.StoreRegistersWritesTheBlock := by
  intro s x hrange
  have h := Completes.ldMemVx (x := x) (by omega)
  have houtside := bytesSameOutside_of_stored s s.index.toNat (regBlock s x)
  rw [regBlock_length] at houtside
  refine ⟨_, h.exec_eq, fun k hk => ?_, houtside, State.advance_pc _, h.frame⟩
  rw [readByte_of_stored _ _ _ (by rw [regBlock_length]; exact Nat.lt_succ_of_le hk), regBlock_getD s x k hk]

/-- Settles O34: the block at `I` is loaded, and the registers above it are kept. -/
theorem loadRegistersReadsTheBlock : Obligations.LoadRegistersReadsTheBlock := by
  intro s x hrange
  have h := Completes.ldVxMem (x := x) (by omega)
  refine ⟨_, h.exec_eq, fun k hk => ?_, fun k hk => ?_, State.advance_pc _, h.frame⟩
  · exact (loadBlock_getElem s x k).trans (if_pos hk)
  · exact (loadBlock_getElem s x k).trans (if_neg (not_le.2 hk))

/-! ### An access out of range -/

/-- Settles O35: each check fails, and the fault entry writes the record alone. -/
theorem outOfRangeAccessesFault : Obligations.OutOfRangeAccessesFault := by
  intro s x y n
  refine ⟨fun h0 h => ⟨exec_drw_faults h0 h, rfl, rfl⟩, fun h => ⟨?_, rfl, rfl⟩, fun h => ⟨?_, rfl, rfl⟩,
    fun h => ⟨?_, rfl, rfl⟩⟩
  · exact ((exec_ldB_cases x s).resolve_left fun hin => by omega).2
  · exact ((exec_ldMemVx_cases x s).resolve_left fun hin => by omega).2
  · exact ((exec_ldVxMem_cases x s).resolve_left fun hin => by omega).2

/-! ### A fetch after a store -/

/-- A fetch is accepted at any `pc` that leaves two bytes, and reads them. -/
theorem fetch_at {p : Word} (hp : p.toNat + 2 ≤ 4096) (t : State) :
    fetch { t with pc := p } = some (t.readByte p.toNat, t.readByte (p.toNat + 1)) :=
  fetch_inRange (s := { t with pc := p }) hp

/-- Settles O36: a fetch reads memory as the store left it, byte by byte. -/
theorem storesAreSeenByFetches : Obligations.StoresAreSeenByFetches := by
  intro s x p hp
  refine ⟨fun hrange => ?_, fun hrange => ?_⟩
  · obtain ⟨t, ht, hin, hout, -, -⟩ := storeRegistersWritesTheBlock s x hrange
    refine ⟨t, ht, _, _, fetch_at hp t, fun k hk he => ?_, fun k hk he => ?_, fun h => hout _ (by omega),
      fun h => hout _ (by omega)⟩
    · rw [he, hin k hk]
    · rw [he, hin k hk]
  · have hdigit {k : Nat} (hk : k < 3) := readByte_of_digits s s.index.toNat (s.readV x) hk
    have hout := bytesSameOutside_of_digits s s.index.toNat (s.readV x)
    refine ⟨_, (Completes.ldB (x := x) hrange).exec_eq, _, _, fetch_at hp _, fun k hk he => ?_, fun k hk he => ?_,
      hout _, hout _⟩
    · rw [he, hdigit hk]
    · rw [he, hdigit hk]

end Sys2Proof.IndexMemory
end

section
/-! PROOFS. Keys, timers, the host's operations and the beep edge (44_keys_timers.md, 60_exceptions.md). -/

namespace Sys2Proof.KeysTimers

open Sys2Proof.Machine
open Sys2Proof.Execution

/-! ### The instructions -/

theorem exec_ldVxDt (x : Reg) (s : State) : exec (.ldVxDt x) s = .next (s.writeV x s.dt).advance := rfl

theorem exec_ldDtVx (x : Reg) (s : State) : exec (.ldDtVx x) s = .next (s.writeDT (s.readV x)).advance := rfl

theorem exec_ldStVx (x : Reg) (s : State) : exec (.ldStVx x) s = .next (s.writeST (s.readV x)).advance := rfl

theorem exec_ldVxK (x : Reg) (s : State) : exec (.ldVxK x) s = .next (s.writeWait (some x)).advance := rfl

/-- Settles O40: each is one write and the advance. -/
theorem timerMoves : Obligations.TimerMoves := fun s x =>
  ⟨⟨_, exec_ldVxDt x s, Alu.readV_writeV_advance s x _, Alu.regsSameExcept_writeV_advance s x _, State.advance_pc _,
      exec_frame rfl (exec_ldVxDt x s)⟩,
    ⟨_, exec_ldDtVx x s, rfl, State.advance_pc _, exec_frame rfl (exec_ldDtVx x s)⟩,
    ⟨_, exec_ldStVx x s, rfl, State.advance_pc _, exec_frame rfl (exec_ldStVx x s)⟩⟩

/-- Settles O41: the wait is recorded, and the key latch is not read. -/
theorem getKeyRecordsTheWait : Obligations.GetKeyRecordsTheWait := fun s x =>
  ⟨_, exec_ldVxK x s, rfl, State.advance_pc _, exec_frame rfl (exec_ldVxK x s)⟩

/-! ### The host's operations -/

theorem hostOp_press {s : State} (h : s.fault = none) (k : Key) : hostOp (.press k) s = .next (s.press k) := by
  simp only [hostOp, h]

theorem hostOp_release {s : State} (h : s.fault = none) : hostOp .release s = .next s.release := by
  simp only [hostOp, h]

theorem hostOp_tick {s : State} (h : s.fault = none) : hostOp .tick s = tickBody s := by
  simp only [hostOp, h]

theorem press_key (s : State) (k : Key) : (s.press k).key = some k := by
  unfold State.press
  split <;> rfl

/-- Settles O42: a press with no wait latches the key alone; with one it also writes the register and ends the wait. -/
theorem pressLatchesAndResolvesTheWait : Obligations.PressLatchesAndResolvesTheWait := by
  intro s k hs
  refine ⟨_, hostOp_press hs k, press_key s k, ExecutionCycle.press_wait s k, fun hw => ?_,
    fun x hw => ⟨ExecutionCycle.press_readV hw k, fun j hj => ?_, ?_⟩⟩
  · rw [ExecutionCycle.press_of_no_wait hw]
    simp [SameExcept]
  · rw [ExecutionCycle.press_of_wait hw]
    have hne : j ≠ x := List.ne_of_not_mem_cons hj
    exact (State.readV_writeV _ x j _).trans (if_neg hne)
  · rw [ExecutionCycle.press_of_wait hw]
    simp [SameExcept]

/-- Settles O43: a release writes the latch alone. -/
theorem releaseClearsTheLatch : Obligations.ReleaseClearsTheLatch := fun s hs =>
  ⟨_, hostOp_release hs, rfl, by simp [State.release, SameExcept]⟩

/-- The start of a tick changes the timers alone. -/
theorem sameExcept_decrementTimers (s : State) : SameExcept [.dt, .st] s s.decrementTimers := by
  simp [SameExcept]

/-- The rest of a tick, once the timers are counted down (R90). -/
theorem tickBody_eq (s : State) : tickBody s =
    if s.wait = none then runCycles (s.params.clockHz / 60) s.decrementTimers else .next s.decrementTimers := by
  unfold tickBody
  cases hw : s.wait <;> simp [hw, State.ipt]

/-- Settles O44: a tick starts with the timers, each of which counts down to zero and stays there. -/
theorem tickCountsTimersDownFirst : Obligations.TickCountsTimersDownFirst := fun s hs =>
  ⟨s.decrementTimers, countDown_toNat _, countDown_toNat _, sameExcept_decrementTimers s,
    (hostOp_tick hs).trans (tickBody_eq s)⟩

/-- Settles O45: with a wait pending the start of a tick is all of it. -/
theorem waitingTickRunsNoCycle : Obligations.WaitingTickRunsNoCycle := by
  intro s x hs hn hw htick
  have hwait : s.wait ≠ none := by simp [hw]
  refine ⟨{ s with script := s.script.tail }.decrementTimers, ?_, countDown_toNat _, countDown_toNat _, rfl, ?_⟩
  · rw [ExecutionCycle.step_eq_move hs, ExecutionCycle.move_eq_startTick hn htick]
    exact ExecutionCycle.startTick_eq_decrementTimers (s := { s with script := s.script.tail }) (.inl hwait)
  · simp [SameExcept]

/-! ### The beep edge -/

/-- Settles O47: the three cases of the edge, silent with `ST` running, beeping with `ST` at zero, and neither. -/
theorem beepFollowsTheSoundTimer : Obligations.BeepFollowsTheSoundTimer := by
  intro s
  refine ⟨?_, ?_, by simp [SameExcept]⟩
  · unfold State.beepEdge
    split_ifs with hstart hstop
    · exact (decide_eq_true hstart.1).symm
    · exact (decide_eq_false (not_not.2 hstop.1)).symm
    · cases hb : s.beeping <;> simp_all
  · unfold State.beepEdge
    split_ifs
    · rfl
    · rfl
    · exact (List.append_nil _).symm

end Sys2Proof.KeysTimers
end

section
/-! PROOFS. The display (40_display.md R52, R53): both instructions flip a list of distinct cells of the grid, the lit ones
or the ones the sprite covers, in the order of the grid. -/

namespace Sys2Proof.Display

open Sys2Proof.Machine
open Sys2Proof.Execution

/-! ### `CLS` -/

theorem exec_cls (s : State) :
    exec .cls s = .next (s.applyDrawing (flipCells s.fb (litCells s.fb))).advance := rfl

theorem mem_litCells (fb : Framebuffer) (x y : Nat) :
    (x, y) ∈ litCells fb ↔ (x < 64 ∧ y < 32) ∧ fb.get x y = true := by
  rw [litCells, List.mem_filter, mem_gridCells]

/-- Flipping the lit cells leaves none lit. -/
theorem flipCells_litCells_fb (fb : Framebuffer) : (flipCells fb (litCells fb)).fb = Framebuffer.allOff := by
  refine Framebuffer.ext_get fun x y hx hy => ?_
  rw [flipCells_get fb (litCells_inGrid fb) (litCells_nodup fb), Framebuffer.get_allOff]
  simp [mem_litCells, hx, hy]

/-- The event of a lit cell that is flipped is a `ClearPixel`. -/
theorem flipCells_litCells_events (fb : Framebuffer) :
    (flipCells fb (litCells fb)).events = (litCells fb).map fun c => .clearPixel c.1 c.2 := by
  rw [flipCells_events fb (litCells_inGrid fb) (litCells_nodup fb)]
  refine List.map_congr_left fun c hc => if_pos ?_
  exact ((mem_litCells fb c.1 c.2).1 hc).2

/-- Settles O38: the cells flipped are the lit ones, in the order of the grid. -/
theorem clearScreenTurnsAllCellsOff : Obligations.ClearScreenTurnsAllCellsOff := fun s =>
  ⟨_, exec_cls s, flipCells_litCells_fb s.fb, congrArg (s.events ++ ·) (flipCells_litCells_events s.fb),
    State.advance_pc _, exec_frame rfl (exec_cls s)⟩

/-! ### `DRW`: the cells the sprite covers -/

/-- The cells of the grid that the sprite of `Dxyn` covers, in the order of the grid. -/
def coveredCells (s : State) (x y : Reg) (n : Fin 16) : List (Nat × Nat) :=
  gridCells.filter fun c => spriteCovers s x y n c.1 c.2

theorem mem_coveredCells (s : State) (x y : Reg) (n : Fin 16) (px py : Nat) :
    (px, py) ∈ coveredCells s x y n ↔ (px < 64 ∧ py < 32) ∧ spriteCovers s x y n px py = true := by
  rw [coveredCells, List.mem_filter, mem_gridCells]

theorem coveredCells_inGrid (s : State) (x y : Reg) (n : Fin 16) : InGrid (coveredCells s x y n) :=
  filter_gridCells_inGrid _

theorem coveredCells_nodup (s : State) (x y : Reg) (n : Fin 16) : (coveredCells s x y n).Nodup :=
  gridCells_nodup.filter _

/-- A cell is drawn when the sprite covers it: row `py` is the byte at `I + (py - oy)`. -/
theorem mem_spriteCells_iff_covers (s : State) (x y : Reg) (n : Fin 16) (px py : Nat) :
    (px, py) ∈ spriteCells (spriteOrigin s x y).1 (spriteOrigin s x y).2 (s.mem.readBytes s.index.toNat n.val) ↔
      (px < 64 ∧ py < 32) ∧ spriteCovers s x y n px py = true := by
  rw [mem_spriteCells, Memory.readBytes_length]
  simp only [spriteCovers, spriteOrigin, Bool.and_eq_true, decide_eq_true_eq, State.readByte_eq]
  by_cases hrow : (s.readV y).toNat % 32 ≤ py ∧ py < (s.readV y).toNat % 32 + n.val
  · rw [Memory.readBytes_getD _ _ _ _ (by omega)]
    tauto
  · tauto

/-- The drawing's order, row by row and left to right, is the order of the grid. -/
theorem spriteCells_eq_coveredCells (s : State) (x y : Reg) (n : Fin 16) :
    spriteCells (spriteOrigin s x y).1 (spriteOrigin s x y).2 (s.mem.readBytes s.index.toNat n.val) =
      coveredCells s x y n := by
  refine cells_eq_of_ordered (spriteCells_ordered ..) (gridCells_ordered.filter _) ?_
  rw [List.perm_ext_iff_of_nodup (spriteCells_nodup ..) (coveredCells_nodup s x y n)]
  rintro ⟨px, py⟩
  rw [mem_spriteCells_iff_covers, mem_coveredCells]

theorem drawingOf_eq (x y : Reg) (n : Fin 16) (s : State) :
    drawingOf x y n s = flipCells s.fb (coveredCells s x y n) := by
  rw [drawingOf, spriteCells_eq_coveredCells]

theorem drawingOf_get (x y : Reg) (n : Fin 16) (s : State) {px py : Nat} (hx : px < 64) (hy : py < 32) :
    (drawingOf x y n s).fb.get px py = (s.fb.get px py ^^ spriteCovers s x y n px py) := by
  rw [drawingOf_eq, flipCells_get s.fb (coveredCells_inGrid s x y n) (coveredCells_nodup s x y n)]
  simp [mem_coveredCells, hx, hy]

theorem drawingOf_events (x y : Reg) (n : Fin 16) (s : State) :
    (drawingOf x y n s).events = (coveredCells s x y n).map (flipEvent s.fb) := by
  rw [drawingOf_eq, flipCells_events s.fb (coveredCells_inGrid s x y n) (coveredCells_nodup s x y n)]

theorem drawingOf_collision_iff (x y : Reg) (n : Fin 16) (s : State) :
    (drawingOf x y n s).collision = true ↔
      ∃ px py, px < 64 ∧ py < 32 ∧ spriteCovers s x y n px py = true ∧ s.fb.get px py = true := by
  rw [drawingOf_eq, flipCells_collision s.fb (coveredCells_inGrid s x y n) (coveredCells_nodup s x y n),
    List.any_eq_true]
  simp only [Prod.exists, mem_coveredCells, and_assoc]

/-- Settles O39: the cells drawn are the covered ones in the order of the grid, and the flag is whether one was on. -/
theorem drawFlipsTheCoveredCells : Obligations.DrawFlipsTheCoveredCells := by
  intro s x y n hrange
  have h := Completes.drw (x := x) (y := y) hrange
  have hflag := Alu.readV_VF_of_flagLast (drawingOf x y n s).collision (s.applyDrawing (drawingOf x y n s))
  refine ⟨_, h.exec_eq, fun px py hx hy => drawingOf_get x y n s hx hy, fun hhit => ?_, fun hmiss => ?_,
    congrArg (s.events ++ ·) (drawingOf_events x y n s),
    IndexMemory.regsSameExcept_writeFlag_advance (s.applyDrawing (drawingOf x y n s)) _, State.advance_pc _, h.frame⟩
  · rw [hflag, if_pos ((drawingOf_collision_iff x y n s).2 hhit)]
  · rw [hflag, if_neg]
    rintro hcollision
    obtain ⟨px, py, hx, hy, hcovers, hon⟩ := (drawingOf_collision_iff x y n s).1 hcollision
    simp [hmiss px py hx hy hcovers] at hon

end Sys2Proof.Display
end

section
/-! PROOFS. Memory as data, construction and reset (20_memory.md section 1, 70_reset_and_hazards.md). -/

namespace Sys2Proof.Reset

open Sys2Proof.Machine

/-! ### The canonical form determines the cells -/

/-- The first cell of a memory in canonical form holds what its address does not read as in a memory that starts above
it. -/
theorem read_ne_of_wfFrom_cons {lo a : Nat} {b : Byte} {m m' : Memory} (h : Memory.wfFrom lo ((a, b) :: m) = true)
    (h' : Memory.wfFrom (a + 1) m' = true) : Memory.read ((a, b) :: m) a ≠ m'.read a := by
  obtain ⟨-, -, hb, -⟩ := (Memory.wfFrom_cons ..).1 h
  rw [Memory.read_below h' (Nat.lt_succ_self a), Memory.read, if_pos rfl]
  exact hb

/-- Two memories in canonical form that read the same have the same first cell, since the one whose first cell is lower
would read differently there, and above it they still read the same. -/
theorem eq_of_read_eq {lo : Nat} {m m' : Memory} (h : Memory.wfFrom lo m = true) (h' : Memory.wfFrom lo m' = true)
    (hread : ∀ a, a < 4096 → m.read a = m'.read a) : m = m' := by
  induction m generalizing lo m' with
  | nil =>
    cases m' with
    | nil => rfl
    | cons c' rest' =>
      obtain ⟨a', b'⟩ := c'
      obtain ⟨-, ha', -, -⟩ := (Memory.wfFrom_cons ..).1 h'
      exact absurd (hread a' ha').symm (read_ne_of_wfFrom_cons h' rfl)
  | cons c rest ih =>
    obtain ⟨a, b⟩ := c
    obtain ⟨hlo, ha, hb, hrest⟩ := (Memory.wfFrom_cons ..).1 h
    cases m' with
    | nil => exact absurd (hread a ha) (read_ne_of_wfFrom_cons h rfl)
    | cons c' rest' =>
      obtain ⟨a', b'⟩ := c'
      obtain ⟨hlo', ha', hb', hrest'⟩ := (Memory.wfFrom_cons ..).1 h'
      obtain hlt | rfl | hgt := Nat.lt_trichotomy a a'
      · refine absurd (hread a ha) (read_ne_of_wfFrom_cons h ?_)
        exact (Memory.wfFrom_cons ..).2 ⟨hlt, ha', hb', hrest'⟩
      · have hbb : b = b' := by simpa [Memory.read] using hread a ha
        have hrr : rest = rest' := by
          refine ih hrest hrest' fun k hk => ?_
          by_cases hka : a = k
          · subst hka
            rw [Memory.read_below hrest (Nat.lt_succ_self _), Memory.read_below hrest' (Nat.lt_succ_self _)]
          · simpa [Memory.read, hka] using hread k hk
        rw [hbb, hrr]
      · refine absurd (hread a' ha').symm (read_ne_of_wfFrom_cons h' ?_)
        exact (Memory.wfFrom_cons ..).2 ⟨hgt, ha, hb, hrest⟩

/-- Settles O37: cell by cell from the lowest address on. -/
theorem canonicalMemoriesAreEqualWhenTheyReadEqual : Obligations.CanonicalMemoriesAreEqualWhenTheyReadEqual :=
  fun _ _ => eq_of_read_eq

/-! ### Construction -/

theorem background_of_outside_font {a : Nat} (h : a < 0x50 ∨ 0xA0 ≤ a) : Memory.background a = 0 :=
  if_neg (by omega)

/-- The state `Construct` makes when it accepts its arguments (R112, R113). -/
def constructed (font : Vector Byte 80) (limit : Option Nat) (rom : List Byte) (hz : Nat) : State :=
  { State.reset with
    mem := (Memory.writeBytes [] 0x50 font.toList).writeBytes 0x200 rom
    params := { clockHz := hz, stackLimit := limit } }

theorem romWellFormed_iff (rom : List Byte) : romWellFormed rom = true ↔ rom.length ≤ 3584 :=
  decide_eq_true_iff

section Construct

variable {font : Vector Byte 80} {limit : Option Nat} {rom : List Byte} {hz : Nat}

theorem construct_of_long_rom (h : 3584 < rom.length) :
    construct font limit rom hz = .error (.romTooLarge rom.length) :=
  if_pos fun hwf => absurd ((romWellFormed_iff rom).1 hwf) (by omega)

theorem construct_of_slow_clock (h : rom.length ≤ 3584) (hhz : hz < 60) :
    construct font limit rom hz = .error (.clockRefused hz) := by
  unfold construct
  rw [if_neg (not_not.2 ((romWellFormed_iff rom).2 h)), if_pos hhz]

theorem construct_eq_ok (h : rom.length ≤ 3584) (hhz : 60 ≤ hz) :
    construct font limit rom hz = .ok (constructed font limit rom hz) := by
  unfold construct
  rw [if_neg (not_not.2 ((romWellFormed_iff rom).2 h)), if_neg (not_lt.2 hhz)]
  rfl

theorem constructed_mem_wf (h : rom.length ≤ 3584) : (constructed font limit rom hz).mem.wf = true := by
  have hfont : (Memory.writeBytes [] 0x50 font.toList).wf = true := Memory.wf_writeBytes rfl (by simp)
  exact Memory.wf_writeBytes hfont (by omega)

/-- The ROM is far above the font, and what neither covers is background, which is zero there. -/
theorem constructed_readByte (a : Nat) : (constructed font limit rom hz).readByte a =
    if 0x50 ≤ a ∧ a < 0x50 + 80 then font.toList.getD (a - 0x50) 0
    else if 0x200 ≤ a ∧ a < 0x200 + rom.length then rom.getD (a - 0x200) 0 else 0 := by
  rw [State.readByte_eq, constructed, Memory.read_writeBytes, Memory.read_writeBytes, Vector.length_toList]
  by_cases hfont : 0x50 ≤ a ∧ a < 0x50 + 80
  · rw [if_neg (by omega), if_pos hfont, if_pos hfont]
  · rw [if_neg hfont, if_neg hfont, Memory.read, background_of_outside_font (by omega)]

end Construct

/-- Settles O50: the length is checked first, and the two writes over an empty memory are read back. -/
theorem constructLoadsFontAndRom : Obligations.ConstructLoadsFontAndRom := fun _ _ _ _ =>
  ⟨construct_of_long_rom, fun h hhz =>
    ⟨_, construct_eq_ok h hhz, constructed_mem_wf h, fun a _ => constructed_readByte a⟩⟩

/-! ### Reset -/

theorem reset_readV (x : Reg) : State.reset.readV x = 0 := by
  simp [State.readV, State.reset]

/-- Settles O51: the rate is checked, and every part but memory and the parameters has its reset value. -/
theorem constructedMachineIsAtReset : Obligations.ConstructedMachineIsAtReset := fun _ _ _ _ h =>
  ⟨construct_of_slow_clock h, fun hhz =>
    ⟨_, construct_eq_ok h hhz, rfl, reset_readV, rfl, rfl, rfl, rfl, Framebuffer.get_allOff, rfl, rfl, rfl, rfl, rfl,
      rfl, rfl⟩⟩

/-- Settles O52: reset lists no cell, so memory is background, which is zero outside the font. -/
theorem resetState : Obligations.ResetState :=
  ⟨rfl, Framebuffer.get_allOff, rfl, fun _ => background_of_outside_font, rfl⟩

end Sys2Proof.Reset
end

section
/-! PROOFS. The tick and the host's script as runs of steps (45_execution_cycle.md R90, R92, R94): no cycle reads the
fields of the model's driver, so a tick run one cycle at a time goes through the states of the whole tick. -/

namespace Sys2Proof.Refinement

open Sys2Proof.Machine
open Sys2Proof.Execution
open Sys2Proof.ExecutionCycle

/-! ### The driver's fields -/

/-- The state with other values in the two fields that drive the steps. -/
def withDriver (n : Nat) (ops : List HostOp) (s : State) : State := { s with cyclesLeft := n, script := ops }

theorem withDriver_of_idle (ops : List HostOp) {s : State} (h : s.cyclesLeft = 0) :
    withDriver 0 ops s = { s with script := ops } := by
  rw [withDriver, ← h]

theorem exec_withDriver {i : Instr} {s t : State} (n : Nat) (ops : List HostOp) (h : exec i s = .next t) :
    exec i (withDriver n ops s) = .next (withDriver n ops t) := by
  cases i
  case ret =>
    obtain ⟨hstack, ho⟩ | ⟨below, a, hstack, ho⟩ := exec_ret_cases s
    · obtain rfl := next_inj (ho.symm.trans h)
      exact ControlFlow.exec_ret_underflows hstack
    · obtain rfl := next_inj (ho.symm.trans h)
      exact (Completes.ret (s := withDriver n ops s) hstack).exec_eq
  case call | drw | ldB | ldMemVx | ldVxMem =>
    obtain rfl := next_inj h
    simp only [State.withAccess, apply_ite (withDriver n ops)]
    rfl
  all_goals
    obtain rfl := next_inj h
    rfl

theorem cycle_withDriver {s t : State} (n : Nat) (ops : List HostOp) (h : cycle s = .next t) :
    cycle (withDriver n ops s) = .next (withDriver n ops t) := by
  obtain ⟨hout, ho⟩ | ⟨hpc, op, hop, hd, ho⟩ | ⟨hpc, i, hd, ho⟩ := cycle_cases s
  · obtain rfl := next_inj (ho.symm.trans h)
    exact cycle_outOfRange (s := withDriver n ops s) hout
  · obtain rfl := next_inj (ho.symm.trans h)
    obtain ⟨hfault, -⟩ := undecodableWordFaults (withDriver n ops s) op hpc hop (by simp [hd])
    exact hfault
  · rw [cycle_decoded (s := withDriver n ops s) hpc hd]
    exact exec_withDriver n ops (ho.symm.trans h)

theorem beepEdge_withDriver (n : Nat) (ops : List HostOp) (s : State) :
    (withDriver n ops s).beepEdge = withDriver n ops s.beepEdge := by
  unfold State.beepEdge
  simp only [apply_ite (withDriver n ops)]
  rfl

/-! ### The loop of a tick (R90) -/

section Loop

variable {s u : State} {k : Nat} (h : cycle s = .next u)
include h

theorem runCycles_of_fault (hf : u.fault ≠ none) : runCycles (k + 1) s = .next u := by
  simp only [runCycles, h, Option.isSome_iff_ne_none.2 hf, if_true]

theorem runCycles_of_wait (hf : u.fault = none) (hw : u.wait ≠ none) :
    runCycles (k + 1) s = .next u.beepEdge := by
  simp [runCycles, h, hf, Option.isSome_iff_ne_none, hw]

theorem runCycles_of_running (hf : u.fault = none) (hw : u.wait = none) :
    runCycles (k + 1) s = runCycles k u.beepEdge := by
  simp [runCycles, h, hf, hw]

end Loop

/-- The loop answers a next state and neither reads nor changes the driver's fields. -/
theorem runCycles_withDriver (k : Nat) (s : State) :
    ∃ t, ∀ n ops, runCycles k (withDriver n ops s) = .next (withDriver n ops t) := by
  induction k generalizing s with
  | zero => exact ⟨s, fun _ _ => rfl⟩
  | succ k ih =>
    obtain ⟨u, hu⟩ := cycle_total s
    by_cases hf : u.fault = none
    · by_cases hw : u.wait = none
      · obtain ⟨t, ht⟩ := ih u.beepEdge
        refine ⟨t, fun n ops => ?_⟩
        rw [runCycles_of_running (cycle_withDriver n ops hu) hf hw, beepEdge_withDriver, ht]
      · refine ⟨u.beepEdge, fun n ops => ?_⟩
        rw [runCycles_of_wait (cycle_withDriver n ops hu) hf hw, beepEdge_withDriver]
    · exact ⟨u, fun n ops => runCycles_of_fault (cycle_withDriver n ops hu) hf⟩

/-- So does a host operation. -/
theorem hostOp_withDriver (op : HostOp) {s : State} (hs : s.fault = none) :
    ∃ t, ∀ n ops, hostOp op (withDriver n ops s) = .next (withDriver n ops t) := by
  cases op with
  | tick =>
    by_cases hw : s.wait = none
    · obtain ⟨t, ht⟩ := runCycles_withDriver s.ipt s.decrementTimers
      refine ⟨t, fun n ops => ?_⟩
      rw [KeysTimers.hostOp_tick (s := withDriver n ops s) hs, KeysTimers.tickBody_eq]
      exact (if_pos hw).trans (ht n ops)
    · refine ⟨s.decrementTimers, fun n ops => ?_⟩
      rw [KeysTimers.hostOp_tick (s := withDriver n ops s) hs, KeysTimers.tickBody_eq]
      exact if_neg hw
  | press k =>
    refine ⟨s.press k, fun n ops => ?_⟩
    rw [KeysTimers.hostOp_press (s := withDriver n ops s) hs]
    cases hw : s.wait with
    | none => rw [press_of_no_wait hw, press_of_no_wait (s := withDriver n ops s) hw]; rfl
    | some x => rw [press_of_wait hw, press_of_wait (s := withDriver n ops s) hw]; rfl
  | release => exact ⟨s.release, fun n ops => KeysTimers.hostOp_release (s := withDriver n ops s) hs⟩

/-! ### Steps -/

theorem run_succ {s t : State} (k : Nat) (h : step s = .next t) :
    Host.Core.run core (k + 1) s = Host.Core.run core k t := by
  have h' : core.step s = .next t := h
  simp only [Host.Core.run, h']

theorem run_add {j : Nat} (k : Nat) {s t : State} (h : Host.Core.run core j s = .next t) :
    Host.Core.run core (j + k) s = Host.Core.run core k t := by
  induction j generalizing s with
  | zero =>
    obtain rfl := next_inj h
    rw [Nat.zero_add]
  | succ j ih =>
    by_cases hs : s.fault = none
    · obtain ⟨u, hu⟩ := onlyAFaultedCoreStops.2 s hs
      rw [run_succ j hu] at h
      rw [Nat.succ_add, run_succ _ hu, ih h]
    · obtain ⟨r, hr⟩ := Option.ne_none_iff_exists'.1 hs
      have hstop : core.step s = .fault (.halted r) := (faultedCoreHasNoMove s r hr).1
      simp only [Host.Core.run, hstop] at h
      cases h

/-- Two states with the same step have the same runs of one step and more. -/
theorem run_congr_of_step_eq {s s' : State} (h : step s = step s') {j : Nat} (hj : 0 < j) :
    Host.Core.run core j s = Host.Core.run core j s' := by
  obtain ⟨j, rfl⟩ := Nat.exists_eq_add_of_lt hj
  have h' : core.step s = core.step s' := h
  simp only [Host.Core.run, h']

/-! ### A tick is a run of steps -/

/-- With `k` cycles left, the loop of `k` cycles is at most `k` steps: each runs one cycle and leaves one cycle less, or
none where a fault or a wait ends the loop. -/
theorem run_loop (k : Nat) (ops : List HostOp) {s : State} (hs : s.fault = none) :
    ∃ j, j ≤ k ∧ (0 < k → 0 < j) ∧
      Host.Core.run core j (withDriver k ops s) = runCycles k (withDriver 0 ops s) := by
  induction k generalizing s with
  | zero => exact ⟨0, le_rfl, id, rfl⟩
  | succ k ih =>
    obtain ⟨u, hu⟩ := cycle_total s
    have hcycle (n : Nat) := cycle_withDriver n ops hu
    have hstep : step (withDriver (k + 1) ops s) = .next (withDriver (k + 1) ops u).afterCycle := by
      rw [step_eq_move (s := withDriver (k + 1) ops s) hs, move_eq_cycleSlot (Nat.succ_pos k),
        cycleSlot_of_cycle (hcycle (k + 1))]
    by_cases hf : u.fault = none
    · have hedge (n m : Nat) : (withDriver n ops u).beepEdge.withCycles m = withDriver m ops u.beepEdge := by
        rw [beepEdge_withDriver]
        rfl
      by_cases hw : u.wait = none
      · rw [afterCycle_of_running (t := withDriver (k + 1) ops u) hf hw, hedge] at hstep
        obtain ⟨j, hj, -, hrun⟩ := ih (s := u.beepEdge) (by rw [State.beepEdge_fault, hf])
        refine ⟨j + 1, by omega, fun _ => Nat.succ_pos j, ?_⟩
        rw [run_succ j hstep, runCycles_of_running (hcycle 0) hf hw, beepEdge_withDriver]
        exact hrun
      · rw [afterCycle_of_wait (t := withDriver (k + 1) ops u) hf hw, hedge] at hstep
        refine ⟨1, by omega, fun _ => Nat.one_pos, ?_⟩
        rw [run_succ 0 hstep, runCycles_of_wait (hcycle 0) hf hw, beepEdge_withDriver]
        rfl
    · rw [afterCycle_of_fault (t := withDriver (k + 1) ops u) hf] at hstep
      refine ⟨1, by omega, fun _ => Nat.one_pos, ?_⟩
      rw [run_succ 0 hstep, runCycles_of_fault (hcycle 0) hf]
      rfl

/-- Settles O48: the step that starts a tick with cycles to run is the step that its state with IPT cycles left makes,
and one that has none is the whole tick. -/
theorem tickIsARunOfSteps : Obligations.TickIsARunOfSteps := by
  intro s rest hs hn hscript
  have htick : s.takeOp.1 = .tick := by simp [State.takeOp, hscript]
  have hstart : step s = startTick { s with script := rest } := by
    rw [step_eq_move hs, move_eq_startTick hn htick, hscript, List.tail_cons]
  rw [KeysTimers.hostOp_tick (s := { s with script := rest }) hs, KeysTimers.tickBody_eq]
  by_cases hrun : s.wait = none ∧ 0 < s.ipt
  · obtain ⟨hw, hipt⟩ := hrun
    obtain ⟨j, hj, hpos, hloop⟩ := run_loop s.ipt rest (s := s.decrementTimers) hs
    have hsame : step s = step (withDriver s.ipt rest s.decrementTimers) := by
      rw [hstart, startTick_eq_cycleSlot (s := { s with script := rest }) hw hipt,
        step_eq_move (s := withDriver s.ipt rest s.decrementTimers) hs, move_eq_cycleSlot hipt]
      rfl
    refine ⟨j, hpos hipt, by omega, ?_⟩
    rw [run_congr_of_step_eq hsame (hpos hipt), hloop, if_pos hw, withDriver, ← hn]
    rfl
  · have hskip : s.wait ≠ none ∨ s.ipt = 0 := by
      rcases not_and_or.1 hrun with hw | hipt
      · exact .inl hw
      · exact .inr (by omega)
    rw [startTick_eq_decrementTimers (s := { s with script := rest }) hskip] at hstart
    refine ⟨1, le_rfl, le_max_left _ _, ?_⟩
    rw [run_succ 0 hstart]
    rcases hskip with hw | hipt
    · exact (if_neg hw).symm
    · have hipt' : s.params.clockHz / 60 = 0 := hipt
      split_ifs
      · rw [hipt']
        rfl
      · rfl

/-! ### A host's script is a run of steps -/

/-- The next operation of the script, run to completion, is a run of steps. -/
theorem hostOp_run {s : State} {op : HostOp} {rest : List HostOp} (hs : s.fault = none) (hn : s.cyclesLeft = 0)
    (hscript : s.script = op :: rest) : ∃ j, Host.Core.run core j s = hostOp op { s with script := rest } := by
  have htake : s.takeOp = (op, { s with script := rest }) := by simp [State.takeOp, hscript]
  cases op with
  | tick =>
    obtain ⟨j, -, -, hrun⟩ := tickIsARunOfSteps s rest hs hn hscript
    exact ⟨j, hrun⟩
  | press k =>
    have hstep : step s = .next ({ s with script := rest }.press k) := by
      simp [step_eq_move hs, move, hn, betweenTicks, htake]
    exact ⟨1, (run_succ 0 hstep).trans (KeysTimers.hostOp_press (s := { s with script := rest }) hs k).symm⟩
  | release =>
    have hstep : step s = .next { s with script := rest }.release := by
      simp [step_eq_move hs, move, hn, betweenTicks, htake]
    exact ⟨1, (run_succ 0 hstep).trans (KeysTimers.hostOp_release (s := { s with script := rest }) hs).symm⟩

/-- The fields of the driver do not matter to what an operation does, so the run that leaves the rest of the script in
the state does what the operations alone would. -/
theorem script_run (ops : List HostOp) {s : State} (hs : s.fault = none) (hn : s.cyclesLeft = 0)
    (hscript : s.script = ops) :
    ∃ k t, Host.Core.run core k s = .next t ∧ t.cyclesLeft = 0 ∧
      runScript ops (withDriver 0 [] s) = .next (withDriver 0 [] t) := by
  induction ops generalizing s with
  | nil => exact ⟨0, s, rfl, hn, rfl⟩
  | cons op rest ih =>
    obtain ⟨j, hrun⟩ := hostOp_run hs hn hscript
    obtain ⟨u, hu⟩ := hostOp_withDriver op hs
    rw [← withDriver_of_idle rest hn, hu] at hrun
    by_cases hf : u.fault = none
    · obtain ⟨k, t, hk, ht, hscriptrun⟩ := ih (s := withDriver 0 rest u) hf rfl rfl
      refine ⟨j + k, t, (run_add k hrun).trans hk, ht, ?_⟩
      simp only [runScript, hu]
      exact (if_neg (by simp [withDriver, hf])).trans hscriptrun
    · refine ⟨j, _, hrun, rfl, ?_⟩
      simp only [runScript, hu]
      exact if_pos (Option.isSome_iff_ne_none.2 hf)

/-- Settles O49: the operations of the script, one after the other, are runs of steps. -/
theorem hostScriptIsARunOfSteps : Obligations.HostScriptIsARunOfSteps := by
  intro s hs hn
  obtain ⟨k, t, hrun, ht, hscript⟩ := script_run s.script hs hn rfl
  rw [withDriver_of_idle [] hn, withDriver_of_idle [] ht] at hscript
  exact ⟨k, t, hrun, hscript⟩

end Sys2Proof.Refinement
end
